-- ==== Sys2Proof/Word.lean ====
section
/-! DEFINITION. The word types of the block (spec/00_scope.md R5: ADDR_W 8, WORD_W 16, CMD_W 32). -/

namespace Sys2Proof

/-- 8 bits: a register address, a payload byte, the checksum (R5 ADDR_W, R12). -/
abbrev Byte := BitVec 8

/-- 16 bits: a register word (R5 WORD_W). -/
abbrev Half := BitVec 16

/-- 32 bits: a command word and a host register (R5 CMD_W, R18). -/
abbrev Word := BitVec 32

/-- The 7-bit slave address of the bus primitives (R30). -/
abbrev SlaveAddr := BitVec 7

end Sys2Proof
end

