-- ==== Sys2Proof/Syntax.lean ====
section
/-! DEFINITION. The commands of the block, one constructor per row of spec/opcode_table.json
(spec/30_encoding.md R45), the register map's names (spec/20_memory.md R33), and the pseudo-instructions and
the textual syntax over them (R53, R54). -/

namespace Sys2Proof

/-- The seven commands, with their operands as R48 takes them from the command word. -/
inductive Instr where
  /-- INIT (R66). -/
  | init
  /-- RDREG a (R67). -/
  | rdreg (a : Byte)
  /-- WRREG a, w (R68). -/
  | wrreg (a : Byte) (w : Half)
  /-- EEUPD a, w (R72). -/
  | eeupd (a : Byte) (w : Half)
  /-- CRCCLR (R58). -/
  | crcclr
  /-- CRCBYTE b (R60). -/
  | crcbyte (b : Byte)
  /-- CRCBIT d (R59). -/
  | crcbit (d : Bool)
  deriving DecidableEq, Repr

/-- The ten named registers of the sensor (R33). -/
inductive RegName where
  | ambientTemp
  | objTemp1
  | objTemp2
  | objTempMax
  | objTempMin
  | pwmctrl
  | ambientTempRange
  | emissivity
  | config1
  | smbusAddLsb
  deriving DecidableEq, Repr

/-- The access class of a named register (R33). -/
inductive RegClass where
  /-- RAM, read-only from the host's side. -/
  | ram
  /-- EEPROM, writable. -/
  | eeprom
  deriving DecidableEq, Repr

/-- The pseudo-instructions (R54). -/
inductive Pseudo where
  /-- `pec b0, ..., bn` (R78). -/
  | pec (bytes : List Byte)
  /-- `rdobj` (R80). -/
  | rdobj
  /-- `rdamb` (R81). -/
  | rdamb
  /-- `getemis` (R82). -/
  | getemis
  /-- `setemis w` (R83). -/
  | setemis (w : Half)
  deriving DecidableEq, Repr

/-- One line of the textual syntax, its numbers not yet checked for width (R53). -/
inductive AsmLine where
  | init
  | rdreg (addr : Nat)
  | wrreg (addr word : Nat)
  | eeupd (addr word : Nat)
  | crcclr
  | crcbyte (byte : Nat)
  | crcbit (bit : Nat)
  /-- `.word v` presents a raw command word unchanged. -/
  | word (value : Nat)
  | pec (bytes : List Nat)
  | rdobj
  | rdamb
  | getemis
  | setemis (word : Nat)
  deriving DecidableEq, Repr

end Sys2Proof
end

