-- ==== Sys2Proof/Decode.lean ====
section
/-! DEFINITION. The decoder of the 32-bit command word, total, rejecting by name (spec/30_encoding.md R46, R47, R51), and
after it the encoder and the pattern rows of R47. -/

namespace Sys2Proof

/-- Why a command word is illegal (R51). Every reason has the one effect of R92. -/
inductive Reject where
  /-- `OP` selects no command. -/
  | unknownOp
  /-- `Z` is not 0. -/
  | nonzeroZ
  /-- `A` is not 0 in a command that does not use it. -/
  | nonzeroA
  /-- `W`, or `W[15:1]` of CRCBIT, is not 0 in a command that does not use it. -/
  | nonzeroW
  deriving DecidableEq, Repr

/-- The field `OP`, bits [31:28] (R46). -/
def fieldOp (c : Word) : BitVec 4 := c.extractLsb' 28 4

/-- The field `Z`, bits [27:24] (R46). -/
def fieldZ (c : Word) : BitVec 4 := c.extractLsb' 24 4

/-- The field `A`, bits [23:16] (R46). -/
def fieldA (c : Word) : Byte := c.extractLsb' 16 8

/-- The field `W`, bits [15:0] (R46). -/
def fieldW (c : Word) : Half := c.extractLsb' 0 16

/-- `i` if the unused fields are 0, else the field that is not (R47, R51). -/
def checked (a w : Bool) (i : Instr) : Except Reject Instr :=
  if a then .error .nonzeroA else if w then .error .nonzeroW else .ok i

/-- The decoder: total, and every word that matches no pattern of R47 is rejected (R51). -/
def decode (c : Word) : Except Reject Instr :=
  if fieldZ c ≠ 0 then .error .nonzeroZ
  else if fieldOp c = 0x1 then checked (fieldA c != 0) (fieldW c != 0) .init
  else if fieldOp c = 0x2 then checked false (fieldW c != 0) (.rdreg (fieldA c))
  else if fieldOp c = 0x3 then .ok (.wrreg (fieldA c) (fieldW c))
  else if fieldOp c = 0x4 then .ok (.eeupd (fieldA c) (fieldW c))
  else if fieldOp c = 0x8 then checked (fieldA c != 0) (fieldW c != 0) .crcclr
  else if fieldOp c = 0x9 then checked false (fieldW c != 0) (.crcbyte (fieldA c))
  else if fieldOp c = 0xA then
    checked (fieldA c != 0) ((fieldW c).extractLsb' 1 15 != 0) (.crcbit ((fieldW c).getLsbD 0))
  else .error .unknownOp

/-- The command word `{OP, 0000, A, W}` (R46). -/
def cmdWord (op : BitVec 4) (a : Byte) (w : Half) : Word :=
  ((op ++ (0 : BitVec 4)) ++ a) ++ w

/-- The encoder (R46, R47). -/
def encode : Instr → Word
  | .init => cmdWord 0x1 0 0
  | .rdreg a => cmdWord 0x2 a 0
  | .wrreg a w => cmdWord 0x3 a w
  | .eeupd a w => cmdWord 0x4 a w
  | .crcclr => cmdWord 0x8 0 0
  | .crcbyte b => cmdWord 0x9 b 0
  | .crcbit d => cmdWord 0xA 0 (bif d then 1 else 0)

/-- One row of R47's table: a word `c` selects the command if `c & mask = match`. -/
structure PatternRow where
  value : Word
  mask : Word
  deriving DecidableEq, Repr

/-- R47's patterns, in its order. -/
def patternRows : List PatternRow :=
  [ ⟨0x10000000, 0xFFFFFFFF⟩, ⟨0x20000000, 0xFF00FFFF⟩, ⟨0x30000000, 0xFF000000⟩, ⟨0x40000000, 0xFF000000⟩,
    ⟨0x80000000, 0xFFFFFFFF⟩, ⟨0x90000000, 0xFF00FFFF⟩, ⟨0xA0000000, 0xFFFFFFFE⟩ ]

/-- The row of R47 that a command's words match. -/
def Instr.row : Instr → PatternRow
  | .init => ⟨0x10000000, 0xFFFFFFFF⟩
  | .rdreg _ => ⟨0x20000000, 0xFF00FFFF⟩
  | .wrreg _ _ => ⟨0x30000000, 0xFF000000⟩
  | .eeupd _ _ => ⟨0x40000000, 0xFF000000⟩
  | .crcclr => ⟨0x80000000, 0xFFFFFFFF⟩
  | .crcbyte _ => ⟨0x90000000, 0xFF00FFFF⟩
  | .crcbit _ => ⟨0xA0000000, 0xFFFFFFFE⟩

/-- `c & mask = match` (R47). -/
def PatternRow.selects (r : PatternRow) (c : Word) : Bool := (c &&& r.mask) == r.value

/-- The command word whose bits are `w`, as the table numbers them; bits above `nbits` are 0. -/
def tableWord (nbits w : Nat) : Word := BitVec.ofNat 32 (w % 2 ^ nbits)

/-- The instruction the decoder reads from a table row's word. -/
def decodeTableWord (nbits w : Nat) : Option Instr := (decode (tableWord nbits w)).toOption

end Sys2Proof
end

