-- ==== Sys2Proof/Config.lean ====
section
/-! DEFINITION. The parameters of the block (spec/00_scope.md R5) and its one free value, the byte the
transport delivers (spec/20_memory.md R31). -/

namespace Sys2Proof

/-- Two of the three parameters R5 calls OPEN; the third, SETTLE_TICKS, stands with the counter whose width it fixes
(`SettleTimer`). They are plain data in State (log entry 1), so that a statement about every state is a statement about
every choice of them. -/
structure Config where
  /-- PEC_ENFORCE: a read whose PEC does not match fails with DATA_INTEGRITY (R69, D6). -/
  pecEnforce : Bool
  /-- T_TICK, the period of `tick`, in nanoseconds (R5; the unit is log entry 1). -/
  tTickNs : Nat
  deriving DecidableEq, Repr

/-- DEV_ADDR, the sensor's fixed slave address (R5). -/
def Config.devAddr : SlaveAddr := 0x5A

/-- POLY, the feedback constant of x^8+x^2+x+1 (R5). -/
def Config.poly : Byte := 0x07

/-- CRC_INIT (R5). -/
def Config.crcInit : Byte := 0x00

/-- READ_LEN, the bytes requested per read (R5). -/
def Config.readLen : Nat := 3

/-- The erase value (R5, R76(b)). -/
def Config.eraseValue : Half := 0x0000

/-- T_SETTLE_MIN, 5 ms (R5, 90_conflicts.md C2). -/
def Config.tSettleMinNs : Nat := 5000000

/-- T_SETTLE, 10 ms (R5, 90_conflicts.md C2). -/
def Config.tSettleNs : Nat := 10000000

/-- F_SCL, the transport's clock target; no rule depends on it (R5, R122, D21). -/
def Config.fSclHz : Nat := 50000

/-- The parameters a reset machine has: PEC_ENFORCE at its default (R5); T_TICK, with `Config.settleTicksAtReset`, is a DESIGN
CHOICE that meets R5's constraint exactly (log entry 1). No statement rests on these values. -/
def Config.atReset : Config := { pecEnforce := false, tTickNs := 1000000 }

/-- SETTLE_TICKS of a reset machine: a DESIGN CHOICE (log entry 1). -/
def Config.settleTicksAtReset : Nat := 10

/-- FREE VALUE (log entry 2): the byte the transport delivers for the n-th `ReadByte` whose answer no list gives.
R31: "The byte a `ReadByte` returns is unconstrained by the block: the model takes it from an oracle". -/
opaque Config.freeByte : Nat → Byte

end Sys2Proof
end

