-- ==== Sys2Proof/Machine/Operands.lean ====
section
/-! DEFINITION. Operand assembly (spec/30_encoding.md R48), the byte order of a word (spec/20_memory.md R36), the
register map and its two admitted sets (R33, R52), and the bytes a PEC covers (R49, R50). -/

namespace Sys2Proof.Machine

/-- `lo(w) = w[7:0]` (R48). -/
def lo (w : Half) : Byte := w.extractLsb' 0 8

/-- `hi(w) = w[15:8]` (R48). -/
def hi (w : Half) : Byte := w.extractLsb' 8 8

/-- A received word, `{b1, b0}`, from the first byte `b0` and the second `b1` (R36, R48). -/
def joinWord (b0 b1 : Byte) : Half := b1 ++ b0

/-- `rdata[7:0] <- b`, the other byte kept (R14, phase RD_LO of R15). -/
def setLo (w : Half) (b : Byte) : Half := joinWord b (hi w)

/-- `rdata[15:8] <- b`, the other byte kept (R14, phase RD_HI of R15). -/
def setHi (w : Half) (b : Byte) : Half := joinWord (lo w) b

/-- `DEV_W = DEV_ADDR << 1` (R5, R48). -/
def devW : Byte := Config.devAddr.setWidth 8 <<< 1

/-- `DEV_R = (DEV_ADDR << 1) | 1` (R5, R48). -/
def devR : Byte := (Config.devAddr.setWidth 8 <<< 1) ||| 1

/-- The bytes a write PEC covers, in wire order (R36, R49). -/
def writePayload (a : Byte) (w : Half) : List Byte := [devW, a, lo w, hi w]

/-- The bytes the read check covers (R36, R50). -/
def readPayload (a l h : Byte) : List Byte := [devR, a, l, h]

/-- The address of a named register (R33). -/
def regAddr : RegName → Byte
  | .ambientTemp => 0x06
  | .objTemp1 => 0x07
  | .objTemp2 => 0x08
  | .objTempMax => 0x20
  | .objTempMin => 0x21
  | .pwmctrl => 0x22
  | .ambientTempRange => 0x23
  | .emissivity => 0x24
  | .config1 => 0x25
  | .smbusAddLsb => 0x2E

/-- The class of a named register (R33). -/
def regClass : RegName → RegClass
  | .ambientTemp => .ram
  | .objTemp1 => .ram
  | .objTemp2 => .ram
  | .objTempMax => .eeprom
  | .objTempMin => .eeprom
  | .pwmctrl => .eeprom
  | .ambientTempRange => .eeprom
  | .emissivity => .eeprom
  | .config1 => .eeprom
  | .smbusAddLsb => .eeprom

/-- The whole map (R33). -/
def regNames : List RegName :=
  [.ambientTemp, .objTemp1, .objTemp2, .objTempMax, .objTempMin, .pwmctrl, .ambientTempRange, .emissivity,
   .config1, .smbusAddLsb]

/-- The addresses RDREG admits (R52). -/
def readableAddrs : List Byte := [0x06, 0x07, 0x08, 0x20, 0x21, 0x22, 0x23, 0x24, 0x25, 0x2E]

/-- The addresses WRREG and EEUPD admit (R52). -/
def writableAddrs : List Byte := [0x20, 0x21, 0x22, 0x23, 0x24, 0x25, 0x2E]

/-- RDREG admits the address (R52). -/
def readable (a : Byte) : Bool := readableAddrs.contains a

/-- WRREG and EEUPD admit the address (R52). -/
def writable (a : Byte) : Bool := writableAddrs.contains a

end Sys2Proof.Machine
end

