-- ==== Sys2Proof/Machine/State.lean ====
section
/-! DEFINITION. The state of the block (spec/10_state.md R10), the trace (spec/20_memory.md R31), the inputs from outside, and the
state after reset (R23, spec/70_reset_and_hazards.md R110). Plain data throughout. -/

namespace Sys2Proof.Machine

/-- The sixteen phases of the sequencer (R15). -/
inductive Phase where
  | idle
  | inSession
  | rdBegin
  | rdAddr
  | rdRestart
  | rdReq
  | rdLo
  | rdHi
  | rdPec
  | wrBegin
  | wrAddr
  | wrLo
  | wrHi
  | wrPec
  | wrStop
  | settle
  deriving DecidableEq, Repr

/-- The five states of the EEPROM update sequencer (R16). -/
inductive EePhase where
  /-- "Idle". -/
  | idle
  /-- "Erasing". -/
  | erasing
  /-- "SettlingAfterErase". -/
  | settleErase
  /-- "Writing". -/
  | writing
  /-- "SettlingAfterWrite". -/
  | settleWrite
  deriving DecidableEq, Repr

/-- One event of the trace: a call of a bus primitive (R30), or a settle wait (R73). -/
inductive Event where
  | beginSession
  | beginTx (sa : SlaveAddr)
  | writeByte (b : Byte)
  | endTx (stop : Bool)
  | requestRead (sa : SlaveAddr) (n : Nat)
  /-- With the byte the transport returned (R31). -/
  | readByte (b : Byte)
  /-- At least `n × T_TICK` of time (R73). -/
  | delay (n : Nat)
  deriving DecidableEq, Repr

/-- An access of the host to one of the four registers, selected by a 2-bit number (R18). -/
inductive HostAccess where
  | write (reg : BitVec 2) (value : Word)
  | read (reg : BitVec 2)
  deriving DecidableEq, Repr

/-- What the outside world can do to the block (log entry 4). -/
inductive Input where
  /-- The host presents an access (R18). -/
  | host (a : HostAccess)
  /-- The outstanding bus primitive returns (R30). -/
  | ret
  /-- The `tick` input (R75). -/
  | tick
  /-- The `rst` input is asserted (R110, R112). -/
  | rst
  deriving DecidableEq, Repr

/-- The model's sticky record of a run, no hardware state (log entries 5, 6, 7). -/
structure Record where
  /-- Some command ended with a code other than OK (R100: a model "keeps its own sticky record"). -/
  failed : Bool
  /-- A framer command was accepted while `ready` = 0: a fault of the program (R119, U1). -/
  usedBeforeInit : Bool
  /-- `rst` came while `seq` was not IDLE: the bus may be left with an open transaction (R112, U10). -/
  abandoned : Bool
  deriving DecidableEq, Repr

/-- Why a step can be impossible. Both are stuck states of the spec, "not final" (R71, R75); both are SAFE, since the
model stops where the hardware waits (log entry 9). -/
inductive Fault where
  /-- Raised by `step` alone: the block waits in a bus phase for a primitive to return, and no return and no `rst` is
  pending (R71(a)). Safe. -/
  | primitiveNeverReturns (phase : Phase)
  /-- Raised by `step` alone: the block waits in SETTLE, and no tick and no `rst` is pending (R75). Safe. -/
  | tickNeverArrives
  deriving DecidableEq, Repr

/-- Why the model gives an instruction no meaning. -/
inductive Refusal where
  /-- Raised by an arm of `exec` whose instruction has no meaning yet: no arm of this model raises it. Safe. -/
  | notModelled (mnemonic : String)
  deriving DecidableEq, Repr

/-- The settle down-counter with the parameter SETTLE_TICKS (R5), which fixes its width: R10's `ceil(log2(SETTLE_TICKS+1))` bits. -/
structure SettleTimer where
  /-- MODEL: SETTLE_TICKS, the length of a settle wait in ticks (R5, R73, log entry 1). -/
  ticks : Nat
  /-- `settle`, the down-counter itself (R10, R16, R75). -/
  count : BitVec (Nat.clog 2 (ticks + 1))
  deriving DecidableEq, Repr

/-- The state: the block's elements (R10, "exactly the following state elements and no others"), the trace (R31), and the model's
own fields (INVENTORY.md, '## State'). -/
structure State where
  /-- Lifecycle: false Uninitialized, true Ready (R11). -/
  ready : Bool
  /-- The CRC-8 accumulator (R12). -/
  crc : Byte
  /-- The register address of the command in progress (R13). -/
  addr : Byte
  /-- The word to be written by the command in progress (R13). -/
  wdata : Half
  /-- The last word read (R14). -/
  rdata : Half
  /-- The last PEC byte received (R14). -/
  pecrx : Byte
  /-- `rdata` holds the word of the last completed, unfailed RDREG (R14). -/
  rvalid : Bool
  /-- The last completed RDREG received a PEC different from the expected one (R14). -/
  pecerr : Bool
  /-- The result code of the last command (R17). -/
  err : BitVec 3
  /-- The sequencer phase (R15). -/
  seq : Phase
  /-- The EEPROM sequencer state (R16). -/
  ee : EePhase
  /-- The settle down-counter (R10, R16, R75), with its parameter. -/
  settle : SettleTimer
  /-- The bus events and delays since reset, oldest first (R31). -/
  trace : List Event
  /-- MODEL: the parameters (R5, log entry 1). -/
  cfg : Config
  /-- MODEL: true, the transport returns from every call and every tick comes, at once; false, only as `inputs` says
  (log entry 3). -/
  prompt : Bool
  /-- MODEL: the pending inputs, oldest first (log entry 4). -/
  inputs : List Input
  /-- MODEL: the bytes the transport delivers next, first in time first (log entry 2). -/
  rx : List Byte
  /-- MODEL: how many free bytes have been drawn, the index of the next one (log entry 2). -/
  drawn : Nat
  /-- MODEL: the words that host reads returned, oldest first (log entry 4). -/
  hostReads : List Word
  /-- MODEL: the sticky record (log entries 5, 6, 7). -/
  record : Record
  deriving DecidableEq, Repr

/-- R5: SETTLE_TICKS is a natural number at least 1 with SETTLE_TICKS × T_TICK ≥ T_SETTLE. -/
abbrev State.ParamsValid (s : State) : Prop :=
  1 ≤ s.settle.ticks ∧ Config.tSettleNs ≤ s.settle.ticks * s.cfg.tTickNs

/-- An empty record. -/
def Record.none : Record := { failed := false, usedBeforeInit := false, abandoned := false }

/-- The machine right after reset: the block's elements and the trace as R23 and R110 list them; the model's own fields as
INVENTORY.md lists them. -/
def State.reset : State :=
  { ready := false, crc := 0x00, addr := 0x00, wdata := 0x0000, rdata := 0x0000, pecrx := 0x00
    rvalid := false, pecerr := false, err := 0, seq := .idle, ee := .idle
    settle := { ticks := Config.settleTicksAtReset, count := 0 }, trace := []
    cfg := Config.atReset, prompt := true, inputs := [], rx := [], drawn := 0, hostReads := []
    record := Record.none }

end Sys2Proof.Machine
end

