-- ==== Sys2Proof/Machine/Flags.lean ====
section
/-! DEFINITION. The result code (spec/60_exceptions.md R91), the read PEC check (spec/41_framer.md R69) and the host-visible views of
the flags and data registers (spec/10_state.md R18). The block has no other flag (R19). -/

namespace Sys2Proof.Machine

/-- The result codes by name (R91). -/
inductive Err where
  | ok
  | illegalCmd
  | invalidOp
  | dataIntegrity
  deriving DecidableEq, Repr

/-- The 3-bit code of a result (R17, R91). -/
def errCode : Err → BitVec 3
  | .ok => 0
  | .illegalCmd => 1
  | .invalidOp => 2
  | .dataIntegrity => 3

/-- The PEC the block expects of a read at address `a` (R50, R69). -/
def expectedPec (a l h : Byte) : Byte := crc8 (readPayload a l h)

/-- The PEC of a write frame (R35, R49). -/
def writePec (a : Byte) (w : Half) : Byte := crc8 (writePayload a w)

/-- One bit as a number, for a register view. -/
def bitOf (b : Bool) : BitVec 1 := BitVec.ofBool b

/-- STATUS: bit 0 READY, bit 1 RVALID, bit 2 PECERR, bits[5:3] ERR, bits[31:6] read as 0 (R18). -/
def statusView (s : State) : Word :=
  (0 : BitVec 26) ++ s.err ++ bitOf s.pecerr ++ bitOf s.rvalid ++ bitOf s.ready

/-- RDATA: bits[15:0], bits[31:16] read as 0 (R18). -/
def rdataView (s : State) : Word := (0 : BitVec 16) ++ s.rdata

/-- PEC: bits[7:0] CRC, bits[15:8] PECRX, bits[31:16] read as 0 (R18). -/
def pecView (s : State) : Word := (0 : BitVec 16) ++ s.pecrx ++ s.crc

/-- What a host read of register number `r` returns; CMD reads 0 (R18). -/
def hostView (r : BitVec 2) (s : State) : Word :=
  if r = 0 then 0
  else if r = 1 then statusView s
  else if r = 2 then rdataView s
  else pecView s

end Sys2Proof.Machine
end

