-- ==== Sys2Proof/Machine/Ops.lean ====
section
/-! DEFINITION. The named operations every meaning is built from: raising an error (spec/60_exceptions.md R90), the bus primitives
and the trace (spec/20_memory.md R30, R31), the sequencer's phases (spec/10_state.md R15), the frames (spec/41_framer.md R64, R65), the
read check (R69), the settle wait (spec/42_eeprom_sequencer.md R73 to R75), and reset (spec/70_reset_and_hazards.md R110, R112). -/

namespace Sys2Proof.Machine

/-! ## Results -/

/-- A command completes with `x[err] <- OK` (R91). -/
def complete (s : State) : State := { s with err := errCode .ok }

/-- `raise E`: the block's only exception mechanism (R90). It writes the code and returns `seq` and `ee` to idle; nothing is
saved and control goes nowhere (R99). The model's sticky record notes it (R100, log entry 6). -/
def raise (e : Err) (s : State) : State :=
  { s with err := errCode e, seq := .idle, ee := .idle, record := { s.record with failed := true } }

/-- The model's note that a framer command was accepted while `ready` = 0 (R119, U1, log entry 5). -/
def noteUse (s : State) : State :=
  { s with record := { s.record with usedBeforeInit := s.record.usedBeforeInit || !s.ready } }

/-! ## The bus -/

/-- Append one event to the trace (R31). -/
def emit (e : Event) (s : State) : State := { s with trace := s.trace ++ [e] }

/-- The byte the transport delivers next: the listed one, else a free value (R31, log entry 2). -/
def rxByte (s : State) : Byte :=
  match s.rx with
  | b :: _ => b
  | [] => Config.freeByte s.drawn

/-- The state after the transport has delivered a byte. -/
def rxDrop (s : State) : State :=
  match s.rx with
  | _ :: rest => { s with rx := rest }
  | [] => { s with drawn := s.drawn + 1 }

/-- `word` of R15's table: the erase value while erasing, `x[wdata]` otherwise. -/
def frameWord (s : State) : Half := if s.ee = .erasing then Config.eraseValue else s.wdata

/-- The event the call of a phase's primitive appends (R15, R31). None for IDLE and SETTLE, which call nothing, and none for the
three `ReadByte` phases, whose event carries the byte and so is appended when the call returns (log entry 10). -/
def callEvent (p : Phase) (s : State) : List Event :=
  match p with
  | .idle => []
  | .inSession => [.beginSession]
  | .rdBegin => [.beginTx Config.devAddr]
  | .rdAddr => [.writeByte s.addr]
  | .rdRestart => [.endTx false]
  | .rdReq => [.requestRead Config.devAddr Config.readLen]
  | .rdLo => []
  | .rdHi => []
  | .rdPec => []
  | .wrBegin => [.beginTx Config.devAddr]
  | .wrAddr => [.writeByte s.addr]
  | .wrLo => [.writeByte (lo (frameWord s))]
  | .wrHi => [.writeByte (hi (frameWord s))]
  | .wrPec => [.writeByte s.crc]
  | .wrStop => [.endTx true]
  | .settle => []

/-- `x[seq] <- p ; <the primitive of p>`: enter a phase and call its primitive, which then is outstanding until it
returns (R15, R30, R64, R65). -/
def enter (p : Phase) (s : State) : State := { s with seq := p, trace := s.trace ++ callEvent p s }

/-! ## Reads -/

/-- `x[rdata][7:0] <- Bus.ReadByte()` (R14, R15). -/
def takeLo (s : State) : State :=
  rxDrop { s with rdata := setLo s.rdata (rxByte s), trace := s.trace ++ [.readByte (rxByte s)] }

/-- `x[rdata][15:8] <- Bus.ReadByte()` (R14, R15). -/
def takeHi (s : State) : State :=
  rxDrop { s with rdata := setHi s.rdata (rxByte s), trace := s.trace ++ [.readByte (rxByte s)] }

/-- `x[pecrx] <- Bus.ReadByte()` (R14, R15). -/
def takePec (s : State) : State :=
  rxDrop { s with pecrx := rxByte s, trace := s.trace ++ [.readByte (rxByte s)] }

/-- `PecCheck(a, l, h, p)`, `a` from `addr`, `{h, l}` from `rdata`, `p` from `pecrx` (R69). -/
def pecCheck (s : State) : State :=
  let expected := expectedPec s.addr (lo s.rdata) (hi s.rdata)
  let bad := s.pecrx != expected
  if (s.cfg.pecEnforce && bad) = true then
    raise .dataIntegrity { s with crc := expected, pecerr := bad, rvalid := false }
  else
    complete { s with crc := expected, pecerr := bad, rvalid := true }

/-! ## Writes and the settle wait -/

/-- The start of `WriteFrame(x[addr], word)`: the PEC is computed before the first primitive is called (R65). -/
def beginWrite (s : State) : State := enter .wrBegin { s with crc := writePec s.addr (frameWord s) }

/-- The `ee` state after a frame has been sent (R74). Only ERASING and WRITING send a frame of an EEUPD. -/
def settlingAfter : EePhase → EePhase
  | .erasing => .settleErase
  | .writing => .settleWrite
  | other => other

/-- The number in the counter. -/
def SettleTimer.value (t : SettleTimer) : Nat := t.count.toNat

/-- `settle <- SETTLE_TICKS` (R73, R75). -/
def SettleTimer.load (t : SettleTimer) : SettleTimer := { t with count := BitVec.ofNat _ t.ticks }

/-- `settle <- settle - 1` (R75). -/
def SettleTimer.countDown (t : SettleTimer) : SettleTimer := { t with count := t.count - 1 }

/-- `settle <- 0` (R75, R110). -/
def SettleTimer.clear (t : SettleTimer) : SettleTimer := { t with count := 0 }

/-- `x[seq] <- SETTLE`, `settle <- SETTLE_TICKS`, and the next `ee` state (R73, R74). -/
def beginSettle (s : State) : State :=
  { s with ee := settlingAfter s.ee, seq := .settle, settle := s.settle.load }

/-- `settle` has reached 0: append `Delay(SETTLE_TICKS)`, then start the value frame after the erase settle, or complete
the command after the write settle (R73, R74). -/
def settleDone (s : State) : State :=
  if s.ee = .settleErase then
    beginWrite (emit (.delay s.settle.ticks) { s with ee := .writing })
  else
    complete (emit (.delay s.settle.ticks) { s with ee := .idle, seq := .idle })

/-- A tick: `settle` is decremented, only while non-zero and only in SETTLE; ticks at other times do nothing (R75).
That a count of 0 in SETTLE, which no run reaches, ends the wait is log entry 8. -/
def tick (s : State) : State :=
  if s.seq = .settle then
    if s.settle.value ≤ 1 then settleDone { s with settle := s.settle.clear }
    else { s with settle := s.settle.countDown }
  else s

/-! ## The sequencer -/

/-- The outstanding primitive of the current phase returns: its effect, then the next row of R15's table (R70). In IDLE and
SETTLE no primitive is outstanding and nothing happens (log entry 4). -/
def primitiveReturn (s : State) : State :=
  match s.seq with
  | .idle => s
  | .inSession => complete { s with seq := .idle, ready := true }
  | .rdBegin => enter .rdAddr s
  | .rdAddr => enter .rdRestart s
  | .rdRestart => enter .rdReq s
  | .rdReq => enter .rdLo s
  | .rdLo => enter .rdHi (takeLo s)
  | .rdHi => enter .rdPec (takeHi s)
  | .rdPec => pecCheck { takePec s with seq := .idle }
  | .wrBegin => enter .wrAddr s
  | .wrAddr => enter .wrLo s
  | .wrLo => enter .wrHi s
  | .wrHi => enter .wrPec s
  | .wrPec => enter .wrStop s
  | .wrStop => if s.ee = .idle then complete { s with seq := .idle } else beginSettle s
  | .settle => s

/-- One whole phase when nothing holds it up: the primitive returns, or all the ticks of the settle wait come. -/
def advance (s : State) : State :=
  if s.seq = .settle then settleDone { s with settle := s.settle.clear } else primitiveReturn s

/-- At most `n` phases, until the block is in IDLE. -/
def advanceN : Nat → State → State
  | 0, s => s
  | n + 1, s => if s.seq = .idle then s else advanceN n (advance s)

/-- The longest command, EEUPD, passes through 14 phases: two frames of six, two settles (R15, R72). -/
def longestCommand : Nat := 14

/-- The command in progress runs to its end: every primitive returns and every tick comes (R71). -/
def finish (s : State) : State := advanceN longestCommand s

/-- After a command has been accepted and its first primitive called: with a prompt environment it runs to its end, which is
how the host sees it (D17); otherwise the block waits for that primitive to return (R71, log entry 3). -/
def proceed (s : State) : State := if s.prompt = true then finish s else s

/-! ## Reset -/

/-- `rst`: every element of the block and the trace at its reset value; no primitive is called and the command in progress is
abandoned where it stands (R110, R112). The parameters and the outside world are not reset (R111); the record notes a reset in
the middle of a command (U10, log entry 7). -/
def applyReset (s : State) : State :=
  { State.reset with
    settle := s.settle.clear
    cfg := s.cfg, prompt := s.prompt, inputs := s.inputs, rx := s.rx, drawn := s.drawn, hostReads := s.hostReads
    record := { s.record with abandoned := s.record.abandoned || (s.seq != .idle) } }

end Sys2Proof.Machine
end

