-- ==== Sys2Proof/Machine/Crc.lean ====
section
/-! DEFINITION. The meanings of CRCCLR, CRCBIT and CRCBYTE (spec/40_crc.md R58 to R60): no bus activity, valid in both lifecycle
states. -/

namespace Sys2Proof.Machine

/-- CRCCLR: `x[crc] <- 0x00 ; x[err] <- OK` (R58). -/
def execCrcclr (s : State) : Host.Outcome State Fault Refusal :=
  .next (complete { s with crc := Config.crcInit })

/-- CRCBIT: `x[crc] <- CrcBit(x[crc], d) ; x[err] <- OK` (R59). -/
def execCrcbit (d : Bool) (s : State) : Host.Outcome State Fault Refusal :=
  .next (complete { s with crc := crcBit s.crc d })

/-- CRCBYTE: `x[crc] <- CrcByte(x[crc], b) ; x[err] <- OK` (R60). -/
def execCrcbyte (b : Byte) (s : State) : Host.Outcome State Fault Refusal :=
  .next (complete { s with crc := crcByte s.crc b })

end Sys2Proof.Machine
end

