-- ==== Sys2Proof/Machine/Eeprom.lean ====
section
/-! DEFINITION. The meaning of EEUPD (spec/42_eeprom_sequencer.md R72 to R76). -/

namespace Sys2Proof.Machine

/-- EEUPD: refused with INVALID_OP outside the EEPROM class; else `addr` and `wdata` latched and the erase frame begins; the
sequencer then settles, writes the value and settles again (R72, R74). -/
def execEeupd (a : Byte) (w : Half) (s : State) : Host.Outcome State Fault Refusal :=
  if writable a = true then
    .next (proceed (beginWrite { noteUse s with addr := a, wdata := w, ee := .erasing }))
  else .next (raise .invalidOp s)

end Sys2Proof.Machine
end

