-- ==== Sys2Proof/Machine/Framer.lean ====
section
/-! DEFINITION. The meanings of INIT, RDREG and WRREG (spec/41_framer.md R66 to R68). No command tests `ready` (spec/10_state.md R11,
spec/70_reset_and_hazards.md R119). -/

namespace Sys2Proof.Machine

/-- INIT: one `BeginSession`, then `ready` = 1 and `err` = OK (R66). A second INIT does the same again. -/
def execInit (s : State) : Host.Outcome State Fault Refusal :=
  .next (proceed (enter .inSession s))

/-- RDREG: refused with INVALID_OP outside the readable set; else `addr` latched, `rvalid` and `pecerr` cleared, the read frame,
the PEC check (R67). -/
def execRdreg (a : Byte) (s : State) : Host.Outcome State Fault Refusal :=
  if readable a = true then
    .next (proceed (enter .rdBegin { noteUse s with addr := a, rvalid := false, pecerr := false }))
  else .next (raise .invalidOp s)

/-- WRREG: refused with INVALID_OP outside the EEPROM class; else `addr` and `wdata` latched and one write frame (R68). -/
def execWrreg (a : Byte) (w : Half) (s : State) : Host.Outcome State Fault Refusal :=
  if writable a = true then
    .next (proceed (beginWrite { noteUse s with addr := a, wdata := w }))
  else .next (raise .invalidOp s)

end Sys2Proof.Machine
end

