-- ==== Sys2Proof/Machine/Dispatch.lean ====
section
/-! DEFINITION. The dispatch of a decoded command to its meaning, one arm per row of spec/opcode_table.json. -/

namespace Sys2Proof.Machine

def exec (i : Instr) (s : State) : Host.Outcome State Fault Refusal :=
  match i with
  | .init => Sys2Proof.Machine.execInit s
  | .rdreg a => Sys2Proof.Machine.execRdreg a s
  | .wrreg a w => Sys2Proof.Machine.execWrreg a w s
  | .eeupd a w => Sys2Proof.Machine.execEeupd a w s
  | .crcclr => Sys2Proof.Machine.execCrcclr s
  | .crcbyte b => Sys2Proof.Machine.execCrcbyte b s
  | .crcbit d => Sys2Proof.Machine.execCrcbit d s

end Sys2Proof.Machine
end

