-- ==== Sys2Proof/Machine/HostPort.lean ====
section
/-! DEFINITION. The host port (spec/10_state.md R18): the four registers, and how the block takes its inputs, idle and busy. -/

namespace Sys2Proof.Machine

/-- A write of a command word to CMD: an illegal word raises ILLEGAL_CMD before anything else (R51, R92, R98); a legal one is
executed. -/
def command (c : Word) (s : State) : Host.Outcome State Fault Refusal :=
  match decode c with
  | .ok i => exec i s
  | .error _ => .next (raise .illegalCmd s)

/-- A host write: register 0 is CMD; writes to the other three are ignored (R18). -/
def hostWrite (r : BitVec 2) (v : Word) (s : State) : Host.Outcome State Fault Refusal :=
  if r = 0 then command v s else .next s

/-- A host read: no side effect on the block (R18); the word returned is noted. -/
def hostRead (r : BitVec 2) (s : State) : State := { s with hostReads := s.hostReads ++ [hostView r s] }

/-- A host access. -/
def hostAccess (a : HostAccess) (s : State) : Host.Outcome State Fault Refusal :=
  match a with
  | .write r v => hostWrite r v s
  | .read r => .next (hostRead r s)

/-- One input while `seq` is IDLE: a host access is performed, `rst` resets; a tick does nothing (R75) and neither does a return,
for no primitive is outstanding (log entry 4). -/
def idleInput (i : Input) (s : State) : Host.Outcome State Fault Refusal :=
  match i with
  | .host a => hostAccess a s
  | .ret => .next s
  | .tick => .next s
  | .rst => .next (applyReset s)

/-- One input, not a host access, while `seq` is not IDLE (R70, R75, R112). -/
def busyInput (i : Input) (s : State) : State :=
  match i with
  | .host _ => s
  | .ret => primitiveReturn s
  | .tick => tick s
  | .rst => applyReset s

/-- The first input that is not a host access, and the inputs without it. While `seq` is not IDLE no host access of any kind is
accepted (R18): the accesses wait, in their order. -/
def takeEvent : List Input → Option (Input × List Input)
  | [] => none
  | .host a :: rest =>
    match takeEvent rest with
    | none => none
    | some (e, rest') => some (e, .host a :: rest')
  | .ret :: rest => some (.ret, rest)
  | .tick :: rest => some (.tick, rest)
  | .rst :: rest => some (.rst, rest)

/-- The stuck state a waiting block is in when nothing pending can free it (R71(a), R75). -/
def stuck (s : State) : Fault :=
  if s.seq = .settle then .tickNeverArrives else .primitiveNeverReturns s.seq

/-- The block in IDLE: it takes the next input, or waits (R15, R110: "the block waits in `IDLE` for the first command"). -/
def idleStep (s : State) : Host.Outcome State Fault Refusal :=
  match s.inputs with
  | [] => .next s
  | i :: rest => idleInput i { s with inputs := rest }

/-- The block in the middle of a command. A prompt environment lets it run to its end; otherwise it takes the next event, or is
stuck (R71, log entries 3 and 9). -/
def busyStep (s : State) : Host.Outcome State Fault Refusal :=
  if s.prompt = true then .next (finish s)
  else
    match takeEvent s.inputs with
    | none => .fault (stuck s)
    | some (i, rest) => .next (busyInput i { s with inputs := rest })

/-- A command word presented to the block, so that it is the next input an idle block takes. -/
def present (c : Word) (s : State) : State :=
  { s with seq := .idle, ee := .idle, inputs := .host (.write 0 c) :: s.inputs }

/-- Commands presented one after another, each to completion before the next (R42(a)). -/
def execAll : List Instr → State → Host.Outcome State Fault Refusal
  | [], s => .next s
  | i :: is, s =>
    match exec i s with
    | .next t => execAll is t
    | .fault r => .fault r
    | .refused r => .refused r

end Sys2Proof.Machine
end

