-- ==== Sys2Proof/Machine/Step.lean ====
section
/-! DEFINITION. One step of the machine, and how a command word comes to be the next one executed. -/

namespace Sys2Proof.Machine

/-- One step: in IDLE one input is taken and, if it is a command, executed; in another phase the command in progress goes on
(spec/10_state.md R15, R18). -/
def step (s : State) : Host.Outcome State Fault Refusal :=
  if s.seq = .idle then idleStep s else busyStep s

/-- The host writes the table word to CMD next. The block fetches nothing (spec/20_memory.md R44): its commands come from the host, and
this places one at the head of the host's accesses, with the block idle so that it is taken (log entry 4). -/
def State.withFetchWord (s : State) (nbits w : Nat) : State := present (tableWord nbits w) s

end Sys2Proof.Machine
end

