-- ==== Sys2Proof/Machine/Pseudo.lean ====
section
/-! DEFINITION. The expansions of the pseudo-instructions into commands (spec/30_encoding.md R54, spec/43_accessors_and_conversions.md R78 to
R83). -/

namespace Sys2Proof.Machine

/-- `pec b0, ..., bn`: `crcclr ; crcbyte b0 ; ... ; crcbyte bn` (R78). -/
def expandPec (bytes : List Byte) : List Instr := .crcclr :: bytes.map .crcbyte

/-- Eight `crcbit` commands, `b[7]` first, in place of `crcbyte b` (R60, R78). -/
def bitSerial (b : Byte) : List Instr :=
  [.crcbit (b.getLsbD 7), .crcbit (b.getLsbD 6), .crcbit (b.getLsbD 5), .crcbit (b.getLsbD 4),
   .crcbit (b.getLsbD 3), .crcbit (b.getLsbD 2), .crcbit (b.getLsbD 1), .crcbit (b.getLsbD 0)]

/-- The commands a pseudo-instruction stands for (R54). -/
def expand : Pseudo → List Instr
  | .pec bytes => expandPec bytes
  | .rdobj => [.rdreg (regAddr .objTemp1)]
  | .rdamb => [.rdreg (regAddr .ambientTemp)]
  | .getemis => [.rdreg (regAddr .emissivity)]
  | .setemis w => [.eeupd (regAddr .emissivity) w]

end Sys2Proof.Machine
end

