-- ==== Sys2Proof/Machine/Asm.lean ====
section
/-! DEFINITION. The textual syntax (spec/30_encoding.md R53, R54): one command a line, and the words a line stands for. -/

namespace Sys2Proof.Machine

/-- Why a line is an assembly error (R53). -/
inductive AsmError where
  /-- The first word is no mnemonic, no pseudo-instruction and not `.word`. -/
  | unknownMnemonic
  /-- An operand is neither a number nor, where an address stands, a register name, or their count is wrong. -/
  | badOperand
  /-- "a value that does not fit is an assembly error, not a truncation". -/
  | doesNotFit
  deriving DecidableEq, Repr

/-- A value in an `n`-bit field, or the error (R53). -/
def fit (n v : Nat) : Except AsmError (BitVec n) :=
  if v < 2 ^ n then .ok (BitVec.ofNat n v) else .error .doesNotFit

/-- All the bytes of `pec`, or the error. -/
def fitBytes : List Nat → Except AsmError (List Byte)
  | [] => .ok []
  | v :: vs =>
    match fit 8 v, fitBytes vs with
    | .ok b, .ok bs => .ok (b :: bs)
    | .error e, _ => .error e
    | _, .error e => .error e

/-- A line with an address and a word. -/
def lineAW (f : Byte → Half → Instr) (addr word : Nat) : Except AsmError (List Word) :=
  match fit 8 addr, fit 16 word with
  | .ok a, .ok w => .ok [encode (f a w)]
  | .error e, _ => .error e
  | _, .error e => .error e

/-- A line with one byte. -/
def lineB (f : Byte → Instr) (v : Nat) : Except AsmError (List Word) :=
  match fit 8 v with
  | .ok b => .ok [encode (f b)]
  | .error e => .error e

/-- The words of a pseudo-instruction's commands, in order (R54). -/
def pseudoWords (p : Pseudo) : List Word := (expand p).map encode

/-- The command words a line stands for, in order (R47, R53, R54). -/
def assemble : AsmLine → Except AsmError (List Word)
  | .init => .ok [encode .init]
  | .rdreg addr => lineB .rdreg addr
  | .wrreg addr word => lineAW .wrreg addr word
  | .eeupd addr word => lineAW .eeupd addr word
  | .crcclr => .ok [encode .crcclr]
  | .crcbyte byte => lineB .crcbyte byte
  | .crcbit bit => if bit < 2 then .ok [encode (.crcbit (bit == 1))] else .error .doesNotFit
  | .word value =>
    match fit 32 value with
    | .ok c => .ok [c]
    | .error e => .error e
  | .pec bytes =>
    match fitBytes bytes with
    | .ok bs => .ok (pseudoWords (.pec bs))
    | .error e => .error e
  | .rdobj => .ok (pseudoWords .rdobj)
  | .rdamb => .ok (pseudoWords .rdamb)
  | .getemis => .ok (pseudoWords .getemis)
  | .setemis word =>
    match fit 16 word with
    | .ok w => .ok (pseudoWords (.setemis w))
    | .error e => .error e

/-! ## Text -/

/-- White space between words. -/
def isBlank (c : Char) : Bool := c == ' ' || c == '\t'

/-- The part of a line before a `;`, which starts a comment (R53). -/
def uncommented (l : List Char) : List Char := l.takeWhile (· != ';')

/-- A text without the white space around it. -/
def trimBlank (l : List Char) : List Char := ((l.dropWhile isBlank).reverse.dropWhile isBlank).reverse

/-- The parts of a text between commas. -/
def splitCommas : List Char → List (List Char)
  | [] => [[]]
  | c :: cs =>
    if c == ',' then [] :: splitCommas cs
    else
      match splitCommas cs with
      | [] => [[c]]
      | p :: ps => (c :: p) :: ps

/-- The value of a digit in bases up to 16. -/
def digitValue (c : Char) : Option Nat :=
  if '0' ≤ c ∧ c ≤ '9' then some (c.toNat - '0'.toNat)
  else if 'a' ≤ c ∧ c ≤ 'f' then some (c.toNat - 'a'.toNat + 10)
  else if 'A' ≤ c ∧ c ≤ 'F' then some (c.toNat - 'A'.toNat + 10)
  else none

/-- The number a list of digits writes in a base, after the digits that gave `acc`. -/
def digitsFrom (base : Nat) : Nat → List Char → Option Nat
  | acc, [] => some acc
  | acc, c :: cs =>
    match digitValue c with
    | some d => if d < base then digitsFrom base (acc * base + d) cs else none
    | none => none

/-- A number in C notation: 0x hexadecimal, a leading 0 octal, else decimal (R53, log entry 16). -/
def cNumber : List Char → Option Nat
  | [] => none
  | '0' :: 'x' :: c :: cs => digitsFrom 16 0 (c :: cs)
  | '0' :: 'X' :: c :: cs => digitsFrom 16 0 (c :: cs)
  | '0' :: cs => digitsFrom 8 0 cs
  | c :: cs => digitsFrom 10 0 (c :: cs)

/-- A register's name as R33 writes it. -/
def regText : RegName → List Char
  | .ambientTemp => "ambient_temp".toList
  | .objTemp1 => "obj_temp1".toList
  | .objTemp2 => "obj_temp2".toList
  | .objTempMax => "obj_temp_max".toList
  | .objTempMin => "obj_temp_min".toList
  | .pwmctrl => "pwmctrl".toList
  | .ambientTempRange => "ambient_temp_range".toList
  | .emissivity => "emissivity".toList
  | .config1 => "config1".toList
  | .smbusAddLsb => "smbus_add_lsb".toList

/-- An address operand: a number, or a name of R33 (R53). -/
def addrOperand (l : List Char) : Option Nat :=
  match regNames.find? (fun r => regText r == l) with
  | some r => some (regAddr r).toNat
  | none => cNumber l

/-- All the numbers of an operand list. -/
def allNumbers : List (List Char) → Option (List Nat)
  | [] => some []
  | l :: ls =>
    match cNumber l, allNumbers ls with
    | some v, some vs => some (v :: vs)
    | _, _ => none

/-- A mnemonic, written as its letters, with its operand texts. -/
def parseWords (m : List Char) (ops : List (List Char)) : Except AsmError AsmLine :=
  let orBad (r : Option AsmLine) : Except AsmError AsmLine :=
    match r with
    | some line => .ok line
    | none => .error .badOperand
  let none0 (line : AsmLine) : Option AsmLine := if ops.isEmpty then some line else none
  let one (value : List Char → Option Nat) (f : Nat → AsmLine) : Option AsmLine :=
    match ops with
    | [x] => (value x).map f
    | _ => none
  let two (f : Nat → Nat → AsmLine) : Option AsmLine :=
    match ops with
    | [x, y] =>
      match addrOperand x, cNumber y with
      | some a, some w => some (f a w)
      | _, _ => none
    | _ => none
  if m == "init".toList then orBad (none0 .init)
  else if m == "rdreg".toList then orBad (one addrOperand .rdreg)
  else if m == "wrreg".toList then orBad (two .wrreg)
  else if m == "eeupd".toList then orBad (two .eeupd)
  else if m == "crcclr".toList then orBad (none0 .crcclr)
  else if m == "crcbyte".toList then orBad (one cNumber .crcbyte)
  else if m == "crcbit".toList then orBad (one cNumber .crcbit)
  else if m == ".word".toList then orBad (one cNumber .word)
  else if m == "pec".toList then orBad ((allNumbers ops).map .pec)
  else if m == "rdobj".toList then orBad (none0 .rdobj)
  else if m == "rdamb".toList then orBad (none0 .rdamb)
  else if m == "getemis".toList then orBad (none0 .getemis)
  else if m == "setemis".toList then orBad (one cNumber .setemis)
  else .error .unknownMnemonic

/-- The command words of one line of text; a blank or comment line has none (R53). -/
def assembleText (l : List Char) : Except AsmError (List Word) :=
  let t := trimBlank (uncommented l)
  if t.isEmpty then .ok []
  else
    let m := t.takeWhile (fun c => !isBlank c)
    let rest := trimBlank (t.dropWhile (fun c => !isBlank c))
    let ops := if rest.isEmpty then [] else (splitCommas rest).map trimBlank
    match parseWords m ops with
    | .ok line => assemble line
    | .error e => .error e

end Sys2Proof.Machine
end

