-- ==== Sys2Proof/Machine/Conversions.lean ====
section
/-! DEFINITION. The host-side conversions (spec/43_accessors_and_conversions.md R84 to R88): software outside the block
(spec/00_scope.md R4), transcribed exactly, without floating point. No command uses them. -/

namespace Sys2Proof.Machine

/-- R84: the raw word, 16-bit unsigned, times 0.02, in kelvin. -/
def kelvin (raw : Half) : Rat := (raw.toNat : Rat) * (2 / 100)

/-- R85: the Kelvin value less 273.15. -/
def celsius (raw : Half) : Rat := kelvin raw - 27315 / 100

/-- R88: hundredths of a kelvin, `2 × raw`. -/
def centiKelvin (raw : Half) : Nat := 2 * raw.toNat

/-- R88: hundredths of a degree Celsius, `2 × raw − 27315`. -/
def centiCelsius (raw : Half) : Int := 2 * (raw.toNat : Int) - 27315

/-- R86, R88: `floor(ratio × 65535)` for the ratio `num / den` in [0, 1]; outside it, and for `den` = 0, the spec says nothing
and neither does the model (U9, log entry 15). -/
def emissivityWord (num den : Nat) : Option Half :=
  if den ≠ 0 ∧ num ≤ den then some (BitVec.ofNat 16 (num * 65535 / den)) else none

/-- R87: `word / 65535`. -/
def emissivityRatio (word : Half) : Rat := (word.toNat : Rat) / 65535

end Sys2Proof.Machine
end

