-- ==== Sys2Proof/Machine/Sensor.lean ====
section
/-! DEFINITION. ENVIRONMENT ASSUMPTIONS, outside the block (spec/20_memory.md R38 to R41, spec/00_scope.md R4): what a well-behaved sensor is
known to hold after a trace, and which bytes it may answer. No command's meaning uses this file; a statement that assumes such
a sensor says so. What the spec leaves open of the sensor and the transport (U1, U2, U4 to U8, U10, U11, U13, and N7 and N9 of 91_not_in_source.md) is settled here as log
entry 11 says, point by point. -/

namespace Sys2Proof.Machine

/-- What an observer of the bus knows of the sensor, and of the transport before it. -/
structure Sensor where
  /-- The registers whose word is known, by address, addresses strictly rising; of an unlisted register nothing is known. -/
  known : List (Nat × Half)
  /-- The bytes of the open write-direction transaction, in time order; none when none is open. -/
  txn : Option (List Byte)
  /-- The register address of an address phase that the last event ended without STOP (R40). -/
  pointer : Option Byte
  /-- The read in progress: its register address and the bytes already delivered. -/
  reading : Option (Byte × List Byte)
  /-- No write frame since the last settle wait (R41, U4). -/
  settled : Bool
  /-- The sensor is known to answer at DEV_ADDR: no write of unknown effect, none to `smbus_add_lsb` among them, has been sent (R120,
  U11). -/
  atDevAddr : Bool
  /-- The transport's session has been started by a `BeginSession` (R113, U1). -/
  started : Bool
  /-- PARAMETER of the transport, which U8 asks for: a `BeginSession` on a started transport leaves the bus and the sensor as they
  are. No event changes it. -/
  againHarmless : Bool
  /-- PARAMETER of the transport, whose contract it is (91_not_in_source.md N7): the bus is free once the three bytes of a read have
  been delivered, though the block issues no closing call (R64). No event changes it. -/
  readFreesBus : Bool
  /-- PARAMETER of the sensor (R37, U7, 91_not_in_source.md N9): a read leaves every word as it was, so that two reads of a known word
  agree. No event changes it. -/
  readKeepsWords : Bool
  deriving DecidableEq, Repr

/-- The known word of a register. -/
def wordAt (known : List (Nat × Half)) (a : Nat) : Option Half :=
  match known with
  | [] => none
  | (b, w) :: rest => if b = a then some w else wordAt rest a

/-- A register's word becomes known. -/
def learn (a : Nat) (w : Half) : List (Nat × Half) → List (Nat × Half)
  | [] => [(a, w)]
  | (b, v) :: rest =>
    if a < b then (a, w) :: (b, v) :: rest
    else if a = b then (a, w) :: rest
    else (b, v) :: learn a w rest

/-- A register's word is no longer known. -/
def forget (a : Nat) : List (Nat × Half) → List (Nat × Half)
  | [] => []
  | (b, v) :: rest => if b = a then rest else (b, v) :: forget a rest

/-- The canonical form: addresses strictly rising. -/
def knownWf : List (Nat × Half) → Bool
  | [] => true
  | [_] => true
  | (a, _) :: (b, v) :: rest => decide (a < b) && knownWf ((b, v) :: rest)

/-- Something of unknown effect has happened: no word is known any more, nor the state of the bus, nor where the sensor answers, so
that every later byte may be any byte. DESIGN CHOICE (log entry 11): the widest reading of each "unknown" of U1, U4, U6, U7, U8, U10, U11
and N7. -/
def lost (sn : Sensor) : Sensor :=
  { sn with known := [], txn := none, pointer := none, reading := none, settled := false, atDevAddr := false }

/-- The sensor has settled and is known to answer at DEV_ADDR (U4, U11). -/
def answers (sn : Sensor) : Bool := sn.settled && sn.atDevAddr

/-- No transaction is open or broken off: none is without its end, no address phase without its read request, and no read without its
three bytes. After the three bytes of a read the bus is free only if the transport's parameter says so, for the spec does not:
"Do not assume the bus is free after a read; that is the transport's contract" (91_not_in_source.md N7). What a reset in mid-command
does to the bus (R112, U10) is not seen here but in `observeRst`. -/
def busFree (sn : Sensor) : Bool :=
  sn.txn.isNone && sn.pointer.isNone &&
    match sn.reading with
    | none => true
    | some (_, got) => sn.readFreesBus && decide (got.length = Config.readLen)

/-- An accepted write of `w` at `a`. Erasing, that is writing 0x0000, is taken to leave 0x0000 (R41); a value is known to be held
only if the register was known erased (R41, U5). After a write to `smbus_add_lsb` (R120, U11), or to a register that is not
EEPROM-class (R41: "undefined sensor behavior"), nothing is known. -/
def sensorWrite (sn : Sensor) (a : Byte) (w : Half) : Sensor :=
  if writable a = true ∧ a ≠ regAddr .smbusAddLsb then
    if w = Config.eraseValue ∨ wordAt sn.known a.toNat = some Config.eraseValue then
      { sn with known := learn a.toNat w sn.known, settled := false }
    else { sn with known := forget a.toNat sn.known, settled := false }
  else lost sn

/-- The end of a transaction with STOP. A frame `a, l, h, p` is accepted only if `p = Crc8([DEV_W, a, l, h])`; otherwise the register is
unchanged (R39), and DESIGN CHOICE (log entry 11) the sensor then settles as after an accepted frame (U4). After a frame sent
before the last one settled (U4), or to a sensor not known to answer (U11), or any other sequence of bytes, nothing is known. -/
def sensorFrame (sn : Sensor) : Sensor :=
  match sn.txn with
  | some [a, l, h, p] =>
    if answers sn = true then
      if p = writePec a (joinWord l h) then sensorWrite sn a (joinWord l h) else { sn with settled := false }
    else lost sn
  | _ => lost sn

/-- A `BeginSession`. The first starts the transport (R113) and is taken to leave the sensor as it was, which the spec does not say:
DESIGN CHOICE (log entry 11). What a second one does is the transport's parameter (U8): harmless, or of unknown effect; and of unknown
effect is one on a bus that is not known to be free (N7, U10). -/
def sensorSession (sn : Sensor) : Sensor :=
  if busFree sn = true ∧ (sn.started = true → sn.againHarmless = true) then { sn with started := true }
  else { lost sn with started := true }

/-- A `BeginTx(sa)`. On a transport that no `BeginSession` has started (U1: the transport's reaction is unknown), on a bus that is not
known to be free (N7, U10), or to another slave, its effect is taken to be unknown: DESIGN CHOICE (log entry 11). -/
def sensorBeginTx (sn : Sensor) (sa : SlaveAddr) : Sensor :=
  if sn.started = true ∧ busFree sn = true ∧ sa = Config.devAddr then { sn with txn := some [], reading := none }
  else lost sn

/-- A `WriteByte(b)`: the next byte of the open transaction; outside one, of unknown effect. -/
def sensorWriteByte (sn : Sensor) (b : Byte) : Sensor :=
  match sn.txn with
  | some sent => { sn with txn := some (sent ++ [b]) }
  | none => lost sn

/-- An `EndTx(stop = false)`: the end of an address phase (R40); after any other sequence of bytes, of unknown effect. -/
def sensorAddressed (sn : Sensor) : Sensor :=
  match sn.txn with
  | some [a] => { sn with txn := none, pointer := some a }
  | _ => lost sn

/-- A `RequestRead(sa, n)`: the read of the register just addressed (R40). What happens when anything has come between, or on another
request, is not said (U6): of unknown effect, a DESIGN CHOICE (log entry 11). -/
def sensorRequest (sn : Sensor) (sa : SlaveAddr) (n : Nat) : Sensor :=
  match sn.pointer with
  | some a =>
    if sa = Config.devAddr ∧ n = Config.readLen then { sn with pointer := none, reading := some (a, []) } else lost sn
  | none => lost sn

/-- A `ReadByte` that delivered `b`. With the third byte the read is complete: whether it left the words as they were is the sensor's
parameter (R37: "MLX does not say that any register has a side effect on read"; U7, N9), and if not, its effect is unknown. A byte
outside a read, or a fourth one, is of unknown effect. -/
def sensorByte (sn : Sensor) (b : Byte) : Sensor :=
  match sn.reading with
  | some (a, got) =>
    if got.length + 1 < Config.readLen ∨ (got.length + 1 = Config.readLen ∧ sn.readKeepsWords = true) then
      { sn with reading := some (a, got ++ [b]) }
    else lost sn
  | none => lost sn

/-- A settle wait: the sensor has settled (R41, U4); in the middle of a transaction (U6), of unknown effect. -/
def sensorDelay (sn : Sensor) : Sensor := if busFree sn = true then { sn with settled := true } else lost sn

/-- One event of the trace, as the sensor takes it. Where the spec leaves the reaction open, each operation says what is chosen or which
parameter decides (log entry 11): transactions before any `BeginSession` (U1), a first and a second `BeginSession` (R113, U8), frames
while the sensor settles (U4), an event between `EndTx(stop = false)` and `RequestRead` (U6), the bus after a read (N7), the words after
a read (U7, N9). -/
def observe (sn : Sensor) (e : Event) : Sensor :=
  match e with
  | .beginSession => sensorSession sn
  | .beginTx sa => sensorBeginTx sn sa
  | .writeByte b => sensorWriteByte sn b
  | .endTx true => { sensorFrame sn with txn := none }
  | .endTx false => sensorAddressed sn
  | .requestRead sa n => sensorRequest sn sa n
  | .readByte b => sensorByte sn b
  | .delay _ => sensorDelay sn

/-- The trace, as the sensor takes it. -/
def observeAll (sn : Sensor) (trace : List Event) : Sensor := trace.foldl observe sn

/-! ## Along the steps of the block -/

/-- What an observer keeps when `rst` is asserted in state `s`. In IDLE everything: "what reset does not touch: the transport's session
state and the sensor" (R111). While `seq` is not IDLE nothing, whichever call is outstanding, a `BeginSession` or an `EndTx(true)` too,
and in SETTLE as well: "the model says nothing about later bus behaviour" (R112, U10), log entry 11. -/
def observeRst (s : State) (sn : Sensor) : Sensor := if s.seq = .idle then sn else lost sn

/-- The step from `s` takes an `rst`. -/
def takesRst (s : State) : Bool :=
  if s.seq = .idle then decide (s.inputs.head? = some .rst)
  else !s.prompt && decide ((takeEvent s.inputs).map Prod.fst = some .rst)

/-- What an observer knows after the step from `s` to `t`: it takes the events the step appended, or the `rst`. -/
def observeStep (s t : State) (sn : Sensor) : Sensor :=
  if takesRst s = true then observeRst s sn else observeAll sn (t.trace.drop s.trace.length)

/-! ## The bytes a sensor may deliver -/

/-- May the sensor deliver this byte? The low byte, then the high byte of the word it holds, then a PEC byte (R38), where the PEC
coverage is the parameter `cover`, a function of the address, the low and the high byte (U2). Where nothing is known, while
it settles, or where it is not known to answer, every byte may come (U1, U4, U5, U7, U8, U10, U11). -/
def mayDeliver (cover : Byte → Byte → Byte → Byte) (sn : Sensor) (b : Byte) : Bool :=
  if answers sn = true then
    match sn.reading with
    | some (a, []) =>
      match wordAt sn.known a.toNat with
      | some w => b == lo w
      | none => true
    | some (a, [_]) =>
      match wordAt sn.known a.toNat with
      | some w => b == hi w
      | none => true
    | some (a, [l, h]) => b == cover a l h
    | _ => true
  else true

/-- May the sensor take part in this event? Only a delivered byte is its own doing. -/
def allowsEvent (cover : Byte → Byte → Byte → Byte) (sn : Sensor) (e : Event) : Bool :=
  match e with
  | .readByte b => mayDeliver cover sn b
  | _ => true

/-- Every byte of the trace is one that a well-behaved sensor may deliver there (R38 to R41). -/
def allowsTrace (cover : Byte → Byte → Byte → Byte) : Sensor → List Event → Bool
  | _, [] => true
  | sn, e :: rest => allowsEvent cover sn e && allowsTrace cover (observe sn e) rest

end Sys2Proof.Machine
end

