-- ==== Sys2Proof/WellFormed.lean ====
section
/-! DEFINITION. Well-formed commands: the address is one the command admits (spec/30_encoding.md R52). A command that is
not well formed still encodes, decodes and executes: it is refused with INVALID_OP (R93). The other operands fill
their fields exactly, so their types say all there is to check (R46). -/

namespace Sys2Proof

/-- R52: the command's address is in its admitted set. -/
def Instr.wellFormed : Instr → Bool
  | .init => true
  | .rdreg a => Machine.readable a
  | .wrreg a _ => Machine.writable a
  | .eeupd a _ => Machine.writable a
  | .crcclr => true
  | .crcbyte _ => true
  | .crcbit _ => true

/-- `Instr.wellFormed` as a proposition. -/
abbrev Instr.WellFormed (i : Instr) : Prop := i.wellFormed = true

end Sys2Proof
end

