-- ==== Sys2Proof/Safety.lean ====
section
/-! DEFINITION. The terms claims are stated in: idle states, the frames as lists of events (spec/20_memory.md R34, R35), the bytes the
transport delivers, the invariant of the sequencer, the rule of the repeated start (R40, spec/70_reset_and_hazards.md R116), and safe
runs. -/

namespace Sys2Proof.Machine

/-- The block waits for a command: `(ee, seq)` is `(EE_IDLE, IDLE)` (R15, R16). -/
abbrev State.Idle (s : State) : Prop := s.seq = .idle ∧ s.ee = .idle

/-! ## The transport's bytes -/

/-- The `k`-th byte, counted from 0, that the transport delivers from this state on (R31, log entry 2). -/
def rxAt (s : State) (k : Nat) : Byte :=
  match s.rx[k]? with
  | some b => b
  | none => Config.freeByte (s.drawn + (k - s.rx.length))

/-- The state with the next `n` bytes delivered and nothing else changed. -/
def rxSkip (n : Nat) (s : State) : State :=
  { s with rx := s.rx.drop n, drawn := s.drawn + (n - s.rx.length) }

/-! ## Frames as events -/

/-- The read-word transaction (R34). -/
def readEvents (a b0 b1 b2 : Byte) : List Event :=
  [.beginTx 0x5A, .writeByte a, .endTx false, .requestRead 0x5A 3, .readByte b0, .readByte b1, .readByte b2]

/-- The write-word transaction (R35). -/
def writeEvents (a : Byte) (w : Half) : List Event :=
  [.beginTx 0x5A, .writeByte a, .writeByte (lo w), .writeByte (hi w),
   .writeByte (crc8 [0xB4, a, lo w, hi w]), .endTx true]

/-- The EEPROM update: erase, settle, write, settle (R72). -/
def updateEvents (a : Byte) (w : Half) (n : Nat) : List Event :=
  writeEvents a 0x0000 ++ [.delay n] ++ writeEvents a w ++ [.delay n]

/-! ## The invariant of the sequencer -/

/-- The seven phases of a read (R15). -/
def inRead : Phase → Bool
  | .rdBegin | .rdAddr | .rdRestart | .rdReq | .rdLo | .rdHi | .rdPec => true
  | .idle | .inSession | .wrBegin | .wrAddr | .wrLo | .wrHi | .wrPec | .wrStop | .settle => false

/-- The six phases of a write (R15). -/
def inWrite : Phase → Bool
  | .wrBegin | .wrAddr | .wrLo | .wrHi | .wrPec | .wrStop => true
  | .idle | .inSession | .rdBegin | .rdAddr | .rdRestart | .rdReq | .rdLo | .rdHi | .rdPec | .settle => false

/-- `ee` and `seq` agree (R16, R74, the list at V-EE1): a settling state exactly in SETTLE, ERASING and WRITING only in a write. -/
def phasesAgree (e : EePhase) (p : Phase) : Bool :=
  match e with
  | .idle => p != .settle
  | .erasing => inWrite p
  | .writing => inWrite p
  | .settleErase => p == .settle
  | .settleWrite => p == .settle

/-- The invariant every step keeps: the parameters are ones R5 admits; `ee` and `seq` agree; the settle counter is between 1 and
SETTLE_TICKS in SETTLE and 0 elsewhere (R75); `err` is at most 3 (R17); in a write, `crc` is the PEC of the frame being sent (R65); the
address is one the command in progress admits (R52); in a read, `rvalid` and `pecerr` are clear (R14); an enforced PEC check leaves no
valid word with a PEC error (R69); with a prompt environment the block is seen in IDLE only (R18). -/
abbrev SequencerInv (s : State) : Prop :=
  s.ParamsValid ∧
  phasesAgree s.ee s.seq = true ∧
  (s.seq = .settle → 1 ≤ s.settle.value ∧ s.settle.value ≤ s.settle.ticks) ∧
  (s.seq ≠ .settle → s.settle.value = 0) ∧
  s.err.toNat ≤ 3 ∧
  (inWrite s.seq = true → s.crc = crc8 [0xB4, s.addr, lo (frameWord s), hi (frameWord s)]) ∧
  (inRead s.seq = true → readable s.addr = true) ∧
  (inWrite s.seq = true ∨ s.seq = .settle → writable s.addr = true) ∧
  (inRead s.seq = true → s.rvalid = false ∧ s.pecerr = false) ∧
  (s.cfg.pecEnforce = true → s.rvalid = true → s.pecerr = false) ∧
  (s.prompt = true → s.seq = .idle)

/-! ## The repeated start -/

/-- Every `EndTx(stop = false)` of the trace that is not its last event is followed at once by `RequestRead(0x5A, 3)` (R40, R116). -/
def restartsUnbroken : List Event → Bool
  | [] => true
  | [_] => true
  | .endTx false :: e :: rest => decide (e = .requestRead 0x5A 3) && restartsUnbroken (e :: rest)
  | _ :: e :: rest => restartsUnbroken (e :: rest)

/-- The trace ends in `EndTx(stop = false)`. -/
def endsInRestart (trace : List Event) : Bool := trace.getLast? == some (.endTx false)

/-- The rule of the repeated start, with the phase that makes it hold on: the trace ends in `EndTx(stop = false)` only while that
call is outstanding. -/
abbrev RestartInv (s : State) : Prop :=
  restartsUnbroken s.trace = true ∧ (endsInRestart s.trace = true → s.seq = .rdRestart)

/-! ## The sensor in service (environment, log entry 11) -/

/-- The transport has been started, the bus is free, and the sensor has settled and is known to answer at DEV_ADDR: what R113, R114,
R117 and R120 ask of the host before it counts on the sensor. -/
abbrev Sensor.InService (sn : Sensor) : Prop := sn.started = true ∧ busFree sn = true ∧ answers sn = true

/-! ## Host accesses and safe runs -/

/-- Is an input a host access? -/
def isHost : Input → Bool
  | .host _ => true
  | .ret | .tick | .rst => false

/-- The host accesses still waiting, in order. -/
def waitingAccesses (s : State) : List Input := s.inputs.filter isHost

/-- No fault of the program (U1) and no reset in mid-command (U10) has happened. -/
abbrev State.Clean (s : State) : Prop := s.record.usedBeforeInit = false ∧ s.record.abandoned = false

/-- A state a run may end in: no command in progress ("stuck, not final", R71) and no fault of the program ("the state is never
final", spec/93_implementation_defined.md U1). -/
abbrev State.Final (s : State) : Prop := s.seq = .idle ∧ s.Clean

end Sys2Proof.Machine
end

