-- ==== Sys2Proof/Certificates/Slice0/Obligations.lean ====
section
/-! DEFINITION. The statements for the provers. Where a statement speaks of `record`, `inputs`, `prompt`, `rx`, `drawn` or `hostReads`, it
speaks of the model's own fields (log entries 1 to 7), not of the block's. Where a statement speaks of the trace of a command in
progress, when an event enters it is log entry 10 (DEDUCED). -/

open Sys2Proof Sys2Proof.Machine

/-! ## Encoding -/

/-- R46 to R48: no bit of a command is dropped by its encoding. -/
def Obligations.DecodeOfEncodeIsTheInstruction : Prop :=
  ∀ i : Instr, decode (encode i) = .ok i

/-- R46: every word has one meaning, its fields are the operands. -/
def Obligations.EncodeOfDecodeIsTheWord : Prop :=
  ∀ (c : Word) (i : Instr), decode c = .ok i → encode i = c

/-- R47: the decoder selects a command exactly by its pattern. -/
def Obligations.DecoderSelectsByThePatterns : Prop :=
  ∀ c : Word,
    (decode c = .ok .init ↔ c &&& 0xFFFFFFFF = 0x10000000) ∧
    ((∃ a, decode c = .ok (.rdreg a)) ↔ c &&& 0xFF00FFFF = 0x20000000) ∧
    ((∃ a w, decode c = .ok (.wrreg a w)) ↔ c &&& 0xFF000000 = 0x30000000) ∧
    ((∃ a w, decode c = .ok (.eeupd a w)) ↔ c &&& 0xFF000000 = 0x40000000) ∧
    (decode c = .ok .crcclr ↔ c &&& 0xFFFFFFFF = 0x80000000) ∧
    ((∃ b, decode c = .ok (.crcbyte b)) ↔ c &&& 0xFF00FFFF = 0x90000000) ∧
    ((∃ d, decode c = .ok (.crcbit d)) ↔ c &&& 0xFFFFFFFE = 0xA0000000) ∧
    (∀ r ∈ patternRows, ∀ q ∈ patternRows, r.selects c = true → q.selects c = true → r = q)

/-- The words V-DEC1 to V-DEC7, written out from R46 and R47, decode to the commands they stand for; the all-zero and the all-ones word
are illegal (R51). -/
def Obligations.WrittenOutWordsDecode : Prop :=
  decode 0b00010000000000000000000000000000 = .ok .init ∧
  decode 0b00100000000001110000000000000000 = .ok (.rdreg 0x07) ∧
  decode 0b00110000001001001111001100110010 = .ok (.wrreg 0x24 0xF332) ∧
  decode 0b01000000001001001111001100110010 = .ok (.eeupd 0x24 0xF332) ∧
  decode 0b10000000000000000000000000000000 = .ok .crcclr ∧
  decode 0b10010000101101000000000000000000 = .ok (.crcbyte 0xB4) ∧
  decode 0b10100000000000000000000000000001 = .ok (.crcbit true) ∧
  (decode 0x00000000).toOption = none ∧ (decode 0xFFFFFFFF).toOption = none

/-! ## Refusals and results -/

/-- R92: a word that matches no pattern changes nothing but `err` (and the model's sticky record, log entry 6). -/
def Obligations.IllegalWordWritesErrOnly : Prop :=
  ∀ (s : State) (c : Word), s.Idle → (∀ r ∈ patternRows, r.selects c = false) →
    command c s = .next { s with err := 1, record := { s.record with failed := true } }

/-- R93: an address the command does not admit changes nothing but `err` (and the model's sticky record). -/
def Obligations.UnadmittedAddressWritesErrOnly : Prop :=
  ∀ (s : State) (a : Byte) (w : Half), s.Idle →
    (a ∉ [0x06, 0x07, 0x08, 0x20, 0x21, 0x22, 0x23, 0x24, 0x25, 0x2E] →
      exec (.rdreg a) s = .next { s with err := 2, record := { s.record with failed := true } }) ∧
    (a ∉ [0x20, 0x21, 0x22, 0x23, 0x24, 0x25, 0x2E] →
      exec (.wrreg a w) s = .next { s with err := 2, record := { s.record with failed := true } } ∧
      exec (.eeupd a w) s = .next { s with err := 2, record := { s.record with failed := true } })

/-- R98: one command reports one code, and the first check that fails decides it: legality, then the address, then the PEC. -/
def Obligations.FirstFailingCheckDecidesTheCode : Prop :=
  ∀ (s : State) (c : Word), s.Idle → s.prompt = true →
    ∃ t, command c s = .next t ∧
      t.err =
        match decode c with
        | .error _ => 1
        | .ok i =>
          if i.wellFormed = false then 2
          else
            match i with
            | .rdreg a => if s.cfg.pecEnforce = true ∧ rxAt s 2 ≠ crc8 [0xB5, a, rxAt s 0, rxAt s 1] then 3 else 0
            | _ => 0

/-- R17: `err` is overwritten by every command and is not sticky: its old value has no effect on anything. -/
def Obligations.OldErrHasNoEffect : Prop :=
  ∀ (s : State) (c : Word) (e : BitVec 3), s.Idle → s.prompt = true → command c { s with err := e } = command c s

/-! ## The CRC unit -/

/-- R55 in the arithmetic of numbers: top bit against payload bit, shift with the top bit dropped, feedback 0x07. -/
def Obligations.BitStepShiftsAndFeedsBack : Prop :=
  ∀ (c : Byte) (d : Bool),
    (crcBit c d).toNat =
      if (decide (128 ≤ c.toNat) ^^ d) = true then (2 * c.toNat % 256) ^^^ 7 else 2 * c.toNat % 256

/-- R61: the byte step in XOR-first form, in table form with the table as printed, and the consequences drawn there. -/
def Obligations.ByteStepHasTheEquivalentForms : Prop :=
  (∀ c b : Byte, crcByte c b = shift8 (c ^^^ b)) ∧
  (∀ c b : Byte, crcTable[(c ^^^ b).toNat]? = some (crcByte c b)) ∧
  (∀ v : Byte, crcTable[v.toNat]? = some (crcByte 0x00 v)) ∧
  (∀ c : Byte, crcByte c c = 0x00) ∧
  (∀ c b c' b' : Byte, c ^^^ b = c' ^^^ b' → crcByte c b = crcByte c' b') ∧
  (∀ c : Byte, Function.Bijective (fun b => crcByte c b)) ∧
  (∀ b : Byte, Function.Bijective (fun c => crcByte c b))

/-- R62(a): linearity over GF(2). -/
def Obligations.Crc8IsLinear : Prop :=
  ∀ m1 m2 : List Byte, m1.length = m2.length → crc8 (xorBytes m1 m2) = crc8 m1 ^^^ crc8 m2

/-- R62(b) and (c): leading zeros are invisible, and a message followed by its checksum leaves zero. -/
def Obligations.Crc8LeadingZerosAndResidue : Prop :=
  (∀ m : List Byte, crc8 (0x00 :: m) = crc8 m) ∧
  (∀ m : List Byte, crc8 (m ++ [crc8 m]) = 0x00) ∧
  (∀ (m : List Byte) (p : Byte), crc8 (m ++ [p]) = 0x00 ↔ p = crc8 m)

/-- R62(d): flipping any one bit of any byte of a message changes the checksum. -/
def Obligations.Crc8DetectsEverySingleBitFlip : Prop :=
  ∀ (m : List Byte) (k j : Nat), k < m.length → j < 8 → crc8 (flipBit m k j) ≠ crc8 m

/-- R62(e): every error pattern with an odd number of flipped bits changes the checksum. -/
def Obligations.Crc8DetectsOddErrorPatterns : Prop :=
  ∀ m e : List Byte, m.length = e.length →
    (e.map (fun b => ((List.range 8).filter b.getLsbD).length)).sum % 2 = 1 →
    crc8 (xorBytes m e) ≠ crc8 m

/-- R58, the whole rule: effect and frame for every state, the word, and the error. -/
def Obligations.CrcclrClearsTheAccumulator : Prop :=
  (∀ s : State, exec .crcclr s = .next { s with crc := 0x00, err := 0 }) ∧
  encode .crcclr = 0x80000000 ∧
  (∀ (s : State) (c : Word), s.Idle → fieldOp c = 0x8 → c ≠ 0x80000000 →
    command c s = .next { s with err := 1, record := { s.record with failed := true } })

/-- R59, the whole rule: effect and frame for every state, the word, the error, the corner cases. -/
def Obligations.CrcbitStepsTheAccumulator : Prop :=
  (∀ (s : State) (d : Bool), exec (.crcbit d) s = .next { s with crc := crcBit s.crc d, err := 0 }) ∧
  (∀ d : Bool, encode (.crcbit d) = 0xA0000000 ||| (if d = true then 1 else 0)) ∧
  (∀ (s : State) (c : Word), s.Idle → fieldOp c = 0xA → c ≠ 0xA0000000 → c ≠ 0xA0000001 →
    command c s = .next { s with err := 1, record := { s.record with failed := true } }) ∧
  crcBit 0x00 false = 0x00 ∧ crcBit 0x80 true = 0x00 ∧ crcBit 0x80 false = 0x07 ∧ crcBit 0xFF false = 0xF9 ∧
  crcBit 0xFF true = 0xFE ∧ crcBit 0x00 true = 0x07

/-- R60, the whole rule: effect and frame for every state, the word, the error, eight CRCBIT, the corner cases. -/
def Obligations.CrcbyteStepsTheAccumulator : Prop :=
  (∀ (s : State) (b : Byte), exec (.crcbyte b) s = .next { s with crc := crcByte s.crc b, err := 0 }) ∧
  (∀ b : Byte, encode (.crcbyte b) = 0x90000000 ||| (b.setWidth 32 <<< 16)) ∧
  (∀ (s : State) (c : Word), s.Idle → fieldOp c = 0x9 → fieldZ c ≠ 0 ∨ fieldW c ≠ 0 →
    command c s = .next { s with err := 1, record := { s.record with failed := true } }) ∧
  (∀ (s : State) (b : Byte), execAll (bitSerial b) s = exec (.crcbyte b) s) ∧
  (∀ c : Byte, crcByte c c = 0x00) ∧
  crcByte 0x00 0xFF = 0xF3 ∧ crcByte 0xFF 0x00 = 0xF3 ∧ crcByte 0x00 0xB4 = 0x05

/-- R78, the whole rule: `pec` leaves Crc8 of its bytes in `crc`, byte by byte or bit by bit, where the host reads it. -/
def Obligations.PecLeavesCrc8 : Prop :=
  ∀ (s : State) (bytes : List Byte),
    execAll (expand (.pec bytes)) s = .next { s with crc := crc8 bytes, err := 0 } ∧
    execAll (.crcclr :: bytes.flatMap bitSerial) s = .next { s with crc := crc8 bytes, err := 0 } ∧
    expand (.pec bytes) = .crcclr :: bytes.map .crcbyte ∧
    expand (.pec []) = [.crcclr] ∧
    (hostView 3 { s with crc := crc8 bytes, err := 0 }).extractLsb' 0 8 = crc8 bytes

/-! ## The framer -/

/-- R66, the whole rule: one `BeginSession`, `ready`, `err`, in either lifecycle state; the word; the error. -/
def Obligations.InitStartsTheSession : Prop :=
  (∀ s : State, s.Idle → s.prompt = true →
    exec .init s = .next { s with ready := true, err := 0, trace := s.trace ++ [.beginSession] }) ∧
  encode .init = 0x10000000 ∧
  (∀ (s : State) (c : Word), s.Idle → fieldOp c = 0x1 → c ≠ 0x10000000 →
    command c s = .next { s with err := 1, record := { s.record with failed := true } })

/-- R67 with R34, R64 and R69: what a completed RDREG leaves, for every answer of the transport and both values of PEC_ENFORCE,
everything else unchanged. -/
def Obligations.RdregDeliversTheWord : Prop :=
  (∀ (s : State) (a : Byte), s.Idle → s.prompt = true →
    a ∈ [0x06, 0x07, 0x08, 0x20, 0x21, 0x22, 0x23, 0x24, 0x25, 0x2E] →
    exec (.rdreg a) s =
      .next { s with
        addr := a
        rdata := rxAt s 1 ++ rxAt s 0
        pecrx := rxAt s 2
        crc := crc8 [0xB5, a, rxAt s 0, rxAt s 1]
        pecerr := decide (rxAt s 2 ≠ crc8 [0xB5, a, rxAt s 0, rxAt s 1])
        rvalid := decide (¬ (s.cfg.pecEnforce = true ∧ rxAt s 2 ≠ crc8 [0xB5, a, rxAt s 0, rxAt s 1]))
        err := if s.cfg.pecEnforce = true ∧ rxAt s 2 ≠ crc8 [0xB5, a, rxAt s 0, rxAt s 1] then 3 else 0
        trace := s.trace ++
          [.beginTx 0x5A, .writeByte a, .endTx false, .requestRead 0x5A 3, .readByte (rxAt s 0), .readByte (rxAt s 1),
           .readByte (rxAt s 2)]
        rx := s.rx.drop 3
        drawn := s.drawn + (3 - s.rx.length)
        record :=
          { failed := s.record.failed ||
              decide (s.cfg.pecEnforce = true ∧ rxAt s 2 ≠ crc8 [0xB5, a, rxAt s 0, rxAt s 1])
            usedBeforeInit := s.record.usedBeforeInit || !s.ready
            abandoned := s.record.abandoned } }) ∧
  (∀ a : Byte, encode (.rdreg a) = 0x20000000 ||| (a.setWidth 32 <<< 16)) ∧
  (∀ (s : State) (a : Byte), s.Idle → a ∉ [0x06, 0x07, 0x08, 0x20, 0x21, 0x22, 0x23, 0x24, 0x25, 0x2E] →
    exec (.rdreg a) s = .next { s with err := 2, record := { s.record with failed := true } }) ∧
  (∀ (s : State) (c : Word), s.Idle → fieldOp c = 0x2 → fieldZ c ≠ 0 ∨ fieldW c ≠ 0 →
    command c s = .next { s with err := 1, record := { s.record with failed := true } })

/-- R68 with R35: one write frame, the PEC over the four bytes left in `crc`, everything else unchanged. -/
def Obligations.WrregSendsOneWriteFrame : Prop :=
  (∀ (s : State) (a : Byte) (w : Half), s.Idle → s.prompt = true →
    a ∈ [0x20, 0x21, 0x22, 0x23, 0x24, 0x25, 0x2E] →
    exec (.wrreg a w) s =
      .next { s with
        addr := a
        wdata := w
        crc := crc8 [0xB4, a, w.extractLsb' 0 8, w.extractLsb' 8 8]
        err := 0
        trace := s.trace ++
          [.beginTx 0x5A, .writeByte a, .writeByte (w.extractLsb' 0 8), .writeByte (w.extractLsb' 8 8),
           .writeByte (crc8 [0xB4, a, w.extractLsb' 0 8, w.extractLsb' 8 8]), .endTx true]
        record := { s.record with usedBeforeInit := s.record.usedBeforeInit || !s.ready } }) ∧
  (∀ (a : Byte) (w : Half), encode (.wrreg a w) = 0x30000000 ||| (a.setWidth 32 <<< 16) ||| w.setWidth 32) ∧
  (∀ (s : State) (a : Byte) (w : Half), s.Idle → a ∉ [0x20, 0x21, 0x22, 0x23, 0x24, 0x25, 0x2E] →
    exec (.wrreg a w) s = .next { s with err := 2, record := { s.record with failed := true } }) ∧
  (∀ (s : State) (c : Word), s.Idle → fieldOp c = 0x3 → fieldZ c ≠ 0 →
    command c s = .next { s with err := 1, record := { s.record with failed := true } })

/-- R72 with R76: erase frame, settle, value frame, settle, for every word, everything else unchanged. -/
def Obligations.EeupdErasesSettlesWritesSettles : Prop :=
  (∀ (s : State) (a : Byte) (w : Half), s.Idle → s.prompt = true →
    a ∈ [0x20, 0x21, 0x22, 0x23, 0x24, 0x25, 0x2E] →
    exec (.eeupd a w) s =
      .next { s with
        settle := { s.settle with count := 0 }
        addr := a
        wdata := w
        crc := crc8 [0xB4, a, w.extractLsb' 0 8, w.extractLsb' 8 8]
        err := 0
        trace := s.trace ++
          [.beginTx 0x5A, .writeByte a, .writeByte 0x00, .writeByte 0x00, .writeByte (crc8 [0xB4, a, 0x00, 0x00]),
           .endTx true, .delay s.settle.ticks,
           .beginTx 0x5A, .writeByte a, .writeByte (w.extractLsb' 0 8), .writeByte (w.extractLsb' 8 8),
           .writeByte (crc8 [0xB4, a, w.extractLsb' 0 8, w.extractLsb' 8 8]), .endTx true, .delay s.settle.ticks]
        record := { s.record with usedBeforeInit := s.record.usedBeforeInit || !s.ready } }) ∧
  (∀ (a : Byte) (w : Half), encode (.eeupd a w) = 0x40000000 ||| (a.setWidth 32 <<< 16) ||| w.setWidth 32) ∧
  (∀ (s : State) (a : Byte) (w : Half), s.Idle → a ∉ [0x20, 0x21, 0x22, 0x23, 0x24, 0x25, 0x2E] →
    exec (.eeupd a w) s = .next { s with err := 2, record := { s.record with failed := true } }) ∧
  (∀ (s : State) (c : Word), s.Idle → fieldOp c = 0x4 → fieldZ c ≠ 0 →
    command c s = .next { s with err := 1, record := { s.record with failed := true } })

/-- R5 and R73 (the example E6): with parameters R5 admits, an accepted EEUPD ends with a delay of at least 10 ms, itself at
least the required 5 ms, after its last `EndTx(true)`. -/
def Obligations.EeupdEndsWithTheSettlingDelay : Prop :=
  ∀ (s : State) (a : Byte) (w : Half), s.Idle → s.prompt = true → s.ParamsValid →
    a ∈ [0x20, 0x21, 0x22, 0x23, 0x24, 0x25, 0x2E] →
    ∃ t before n, exec (.eeupd a w) s = .next t ∧ t.trace = before ++ [.endTx true, .delay n] ∧
      10000000 ≤ n * t.cfg.tTickNs ∧ 5000000 ≤ n * t.cfg.tTickNs

/-- R54, R79 to R83: the accessors are the commands they expand to. -/
def Obligations.AccessorsAreTheirCommands : Prop :=
  ∀ (s : State) (w : Half),
    execAll (expand .rdobj) s = exec (.rdreg 0x07) s ∧
    execAll (expand .rdamb) s = exec (.rdreg 0x06) s ∧
    execAll (expand .getemis) s = exec (.rdreg 0x24) s ∧
    execAll (expand (.setemis w)) s = exec (.eeupd 0x24 w) s

/-- R33: the readable addresses are the map's, the writable ones those of its EEPROM class. -/
def Obligations.AdmittedSetsAreTheMapsClasses : Prop :=
  (∀ a : Byte, readable a = true ↔ ∃ r, regAddr r = a) ∧
  (∀ a : Byte, writable a = true ↔ ∃ r, regAddr r = a ∧ regClass r = .eeprom) ∧
  (∀ r q : RegName, regAddr r = regAddr q → r = q)

/-- R20, the frame of every command: what the access matrix marks "-" is unchanged, and so are the model's own fields that the
command has no part in. Nothing is assumed of the operands. -/
def Obligations.CommandsWriteWhatTheMatrixMarks : Prop :=
  ∀ (s t : State) (i : Instr), s.Idle → s.settle.value = 0 → s.prompt = true → exec i s = .next t →
    (i ≠ .init → t.ready = s.ready) ∧
    (i = .init → t.crc = s.crc) ∧
    ((∀ a, i ≠ .rdreg a) → (∀ a w, i ≠ .wrreg a w) → (∀ a w, i ≠ .eeupd a w) → t.addr = s.addr) ∧
    ((∀ a w, i ≠ .wrreg a w) → (∀ a w, i ≠ .eeupd a w) → t.wdata = s.wdata) ∧
    ((∀ a, i ≠ .rdreg a) →
      t.rdata = s.rdata ∧ t.pecrx = s.pecrx ∧ t.rvalid = s.rvalid ∧ t.pecerr = s.pecerr ∧ t.rx = s.rx ∧ t.drawn = s.drawn) ∧
    (i = .crcclr ∨ (∃ b, i = .crcbyte b) ∨ (∃ d, i = .crcbit d) → t.trace = s.trace ∧ t.record = s.record) ∧
    t.seq = .idle ∧ t.ee = .idle ∧ t.settle = s.settle ∧
    t.cfg = s.cfg ∧ t.prompt = s.prompt ∧ t.inputs = s.inputs ∧ t.hostReads = s.hostReads

/-- R21: what a framer command puts on the bus, and its result, depend on the command, the parameters and the transport's bytes, and
on nothing an earlier command left. -/
def Obligations.FramerCommandsForgetEarlierOnes : Prop :=
  ∀ (s t s' t' : State) (i : Instr), s.Idle → t.Idle → s.prompt = true → t.prompt = true →
    s.cfg = t.cfg → s.settle.ticks = t.settle.ticks → s.rx = t.rx → s.drawn = t.drawn →
    (i = .init ∨ (∃ a, i = .rdreg a) ∨ (∃ a w, i = .wrreg a w) ∨ (∃ a w, i = .eeupd a w)) →
    exec i s = .next s' → exec i t = .next t' →
    (∃ events, s'.trace = s.trace ++ events ∧ t'.trace = t.trace ++ events) ∧
    s'.err = t'.err ∧ s'.rx = t'.rx ∧ s'.drawn = t'.drawn ∧
    (i = .init → s'.ready = t'.ready) ∧
    ((∃ a, i = .rdreg a ∧ readable a = true) →
      s'.addr = t'.addr ∧ s'.rdata = t'.rdata ∧ s'.pecrx = t'.pecrx ∧ s'.crc = t'.crc ∧ s'.rvalid = t'.rvalid ∧
      s'.pecerr = t'.pecerr) ∧
    ((∃ a w, (i = .wrreg a w ∨ i = .eeupd a w) ∧ writable a = true) →
      s'.addr = t'.addr ∧ s'.wdata = t'.wdata ∧ s'.crc = t'.crc)

/-- R119: a framer command accepted while `ready` = 0 issues the same primitives and leaves the same registers; the run is marked
and can no more be final (U1, log entry 5). -/
def Obligations.UseBeforeInitRunsAndIsMarked : Prop :=
  ∀ (s : State) (i : Instr), s.Idle → s.prompt = true → i.WellFormed →
    ((∃ a, i = .rdreg a) ∨ (∃ a w, i = .wrreg a w) ∨ (∃ a w, i = .eeupd a w)) →
    ∃ t u, exec i { s with ready := false } = .next t ∧ exec i { s with ready := true } = .next u ∧
      t = { u with ready := false, record := { u.record with usedBeforeInit := true } } ∧ ¬ t.Final

/-! ## The sequencer, event by event -/

/-- R70 with R15: with a transport that answers by events, each accepted command enters the first phase of its group and each return
moves to the next row of the table, with the effect of the row and its primitive called, and nothing else changed; the row RD_PEC
includes the whole PEC check under both values of PEC_ENFORCE (R69). That an event enters the trace when its phase is entered, and a
`ReadByte`'s when it returns, is the model's reading (log entry 10, DEDUCED); the mark of a use before INIT and the sticky record are
the model's (log entries 5 and 6). -/
def Obligations.SequencerFollowsThePhaseTable : Prop :=
  (∀ (s : State) (a : Byte) (w : Half), s.Idle → s.prompt = false →
    exec .init s = .next { s with seq := .inSession, trace := s.trace ++ [.beginSession] } ∧
    (readable a = true →
      exec (.rdreg a) s = .next { s with
        seq := .rdBegin, addr := a, rvalid := false, pecerr := false, trace := s.trace ++ [.beginTx 0x5A]
        record := { s.record with usedBeforeInit := s.record.usedBeforeInit || !s.ready } }) ∧
    (writable a = true →
      exec (.wrreg a w) s = .next { s with
        seq := .wrBegin, addr := a, wdata := w, crc := crc8 [0xB4, a, lo w, hi w], trace := s.trace ++ [.beginTx 0x5A]
        record := { s.record with usedBeforeInit := s.record.usedBeforeInit || !s.ready } }) ∧
    (writable a = true →
      exec (.eeupd a w) s = .next { s with
        seq := .wrBegin, ee := .erasing, addr := a, wdata := w, crc := crc8 [0xB4, a, 0x00, 0x00]
        trace := s.trace ++ [.beginTx 0x5A]
        record := { s.record with usedBeforeInit := s.record.usedBeforeInit || !s.ready } })) ∧
  (∀ (s : State) (rest : List Input), s.prompt = false → s.inputs = .ret :: rest →
    (s.seq = .inSession → step s = .next { s with inputs := rest, seq := .idle, ready := true, err := 0 }) ∧
    (s.seq = .rdBegin → step s = .next { s with inputs := rest, seq := .rdAddr, trace := s.trace ++ [.writeByte s.addr] }) ∧
    (s.seq = .rdAddr → step s = .next { s with inputs := rest, seq := .rdRestart, trace := s.trace ++ [.endTx false] }) ∧
    (s.seq = .rdRestart →
      step s = .next { s with inputs := rest, seq := .rdReq, trace := s.trace ++ [.requestRead 0x5A 3] }) ∧
    (s.seq = .rdReq → step s = .next { s with inputs := rest, seq := .rdLo }) ∧
    (s.seq = .rdLo → step s = .next { s with
      inputs := rest, seq := .rdHi, rdata := hi s.rdata ++ rxAt s 0, trace := s.trace ++ [.readByte (rxAt s 0)]
      rx := s.rx.drop 1, drawn := s.drawn + (1 - s.rx.length) }) ∧
    (s.seq = .rdHi → step s = .next { s with
      inputs := rest, seq := .rdPec, rdata := rxAt s 0 ++ lo s.rdata, trace := s.trace ++ [.readByte (rxAt s 0)]
      rx := s.rx.drop 1, drawn := s.drawn + (1 - s.rx.length) }) ∧
    (s.seq = .rdPec → s.ee = .idle → step s = .next { s with
      inputs := rest, seq := .idle, pecrx := rxAt s 0
      crc := crc8 [0xB5, s.addr, lo s.rdata, hi s.rdata]
      pecerr := decide (rxAt s 0 ≠ crc8 [0xB5, s.addr, lo s.rdata, hi s.rdata])
      rvalid := decide (¬ (s.cfg.pecEnforce = true ∧ rxAt s 0 ≠ crc8 [0xB5, s.addr, lo s.rdata, hi s.rdata]))
      err := if s.cfg.pecEnforce = true ∧ rxAt s 0 ≠ crc8 [0xB5, s.addr, lo s.rdata, hi s.rdata] then 3 else 0
      trace := s.trace ++ [.readByte (rxAt s 0)], rx := s.rx.drop 1, drawn := s.drawn + (1 - s.rx.length)
      record := { s.record with
        failed := s.record.failed ||
          decide (s.cfg.pecEnforce = true ∧ rxAt s 0 ≠ crc8 [0xB5, s.addr, lo s.rdata, hi s.rdata]) } }) ∧
    (s.seq = .wrBegin → step s = .next { s with inputs := rest, seq := .wrAddr, trace := s.trace ++ [.writeByte s.addr] }) ∧
    (s.seq = .wrAddr → step s = .next { s with
      inputs := rest, seq := .wrLo
      trace := s.trace ++ [.writeByte (if s.ee = .erasing then 0x00 else lo s.wdata)] }) ∧
    (s.seq = .wrLo → step s = .next { s with
      inputs := rest, seq := .wrHi
      trace := s.trace ++ [.writeByte (if s.ee = .erasing then 0x00 else hi s.wdata)] }) ∧
    (s.seq = .wrHi → step s = .next { s with inputs := rest, seq := .wrPec, trace := s.trace ++ [.writeByte s.crc] }) ∧
    (s.seq = .wrPec → step s = .next { s with inputs := rest, seq := .wrStop, trace := s.trace ++ [.endTx true] }) ∧
    (s.seq = .wrStop → s.ee = .idle → step s = .next { s with inputs := rest, seq := .idle, err := 0 }) ∧
    (s.seq = .wrStop → s.ee = .erasing → ∃ u : SettleTimer, u.ticks = s.settle.ticks ∧
      u.value = s.settle.ticks ∧ step s = .next { s with inputs := rest, ee := .settleErase, seq := .settle, settle := u }) ∧
    (s.seq = .wrStop → s.ee = .writing → ∃ u : SettleTimer, u.ticks = s.settle.ticks ∧
      u.value = s.settle.ticks ∧ step s = .next { s with inputs := rest, ee := .settleWrite, seq := .settle, settle := u }))

/-- R73 to R75: a tick in SETTLE counts down by one; the tick that reaches 0 appends the delay and starts the value frame or completes
the command; a tick in any other phase does nothing. That the value frame's `BeginTx` enters the trace with that last tick is
the model's reading (log entry 10, DEDUCED). -/
def Obligations.TicksCountTheSettleWait : Prop :=
  ∀ (s : State) (rest : List Input), s.prompt = false → s.inputs = .tick :: rest →
    (∀ n, s.seq = .settle → s.settle.value = n + 2 → ∃ u : SettleTimer, u.ticks = s.settle.ticks ∧
      u.value = n + 1 ∧ step s = .next { s with inputs := rest, settle := u }) ∧
    (s.seq = .settle → s.settle.value = 1 → s.ee = .settleErase →
      step s = .next { s with
        inputs := rest, settle := { s.settle with count := 0 }, ee := .writing, seq := .wrBegin
        crc := crc8 [0xB4, s.addr, lo s.wdata, hi s.wdata]
        trace := s.trace ++ [.delay s.settle.ticks, .beginTx 0x5A] }) ∧
    (s.seq = .settle → s.settle.value = 1 → s.ee = .settleWrite →
      step s = .next { s with
        inputs := rest, settle := { s.settle with count := 0 }, ee := .idle, seq := .idle, err := 0
        trace := s.trace ++ [.delay s.settle.ticks] }) ∧
    (s.seq ≠ .settle → step s = .next { s with inputs := rest })

/-- R74: the cycle of `ee`: no step takes any other transition, but for `rst`. -/
def Obligations.EepromSequencerKeepsToItsCycle : Prop :=
  ∀ s t : State, SequencerInv s → step s = .next t → t.ee ≠ s.ee →
    (s.ee = .idle ∧ t.ee = .erasing) ∨ (s.ee = .erasing ∧ t.ee = .settleErase) ∨
    (s.ee = .settleErase ∧ t.ee = .writing) ∨ (s.ee = .writing ∧ t.ee = .settleWrite) ∨
    (s.ee = .settleWrite ∧ t.ee = .idle) ∨
    (∃ rest, takeEvent s.inputs = some (.rst, rest) ∧ t.ee = .idle)

/-- R71: a command whose primitives all return and whose ticks all come reaches IDLE, from whatever phase it is in. -/
def Obligations.CommandsEndWhenNothingHoldsThemUp : Prop :=
  ∀ s : State, (finish s).seq = .idle ∧ s.trace <+: (finish s).trace ∧
    (finish s).inputs = s.inputs ∧ (finish s).cfg = s.cfg ∧
    (finish s).settle.ticks = s.settle.ticks ∧ (finish s).ready = (s.ready || decide (s.seq = .inSession))

/-- D17, R15, R71: the host's view of a command as one step is what the sequencer does event by event: some sequence of returns and
ticks drives the machine, step by step, to the state the prompt environment reaches at once. -/
def Obligations.OneStepCommandIsAnEventByEventRun : Prop :=
  ∀ (s : State) (i : Instr) (rest : List Input), s.Idle → s.prompt = false →
    ∃ (events : List Input) (t : State),
      (∀ e ∈ events, e = .ret ∨ e = .tick) ∧
      exec i { s with prompt := true, inputs := rest } = .next t ∧
      Host.Core.run Sys2Proof.core (events.length + 1)
        { s with inputs := .host (.write 0 (encode i)) :: (events ++ rest) } = .next { t with prompt := false }

/-! ## The machine -/

/-- R18, R42: when the block is idle and the next input is a CMD write, the step is that command, after the input has been taken:
of a word that decodes to an instruction, that instruction's meaning; of any other word, ILLEGAL_CMD, which changes nothing of the block
but `err` (R51, R92; the sticky record is log entry 6). -/
def Obligations.StepExecutesTheWrittenCommand : Prop :=
  ∀ (s : State) (c : Word) (rest : List Input), s.Idle → s.inputs = .host (.write 0 c) :: rest →
    step s = command c { s with inputs := rest } ∧
    (∀ i, decode c = .ok i → step s = exec i { s with inputs := rest }) ∧
    ((∀ i, decode c ≠ .ok i) →
      step s = .next { s with inputs := rest, err := 1, record := { s.record with failed := true } })

/-- R18: the four host registers: what a read returns, that it changes nothing, and that writes to STATUS, RDATA and PEC are
ignored. -/
def Obligations.HostRegistersAreReadOnlyViews : Prop :=
  ∀ (s : State) (rest : List Input), s.seq = .idle →
    (∀ r, s.inputs = .host (.read r) :: rest →
      ∃ v, step s = .next { s with inputs := rest, hostReads := s.hostReads ++ [v] } ∧
        (r = 0 → v = 0) ∧
        (r = 1 → v.toNat = s.ready.toNat + 2 * s.rvalid.toNat + 4 * s.pecerr.toNat + 8 * s.err.toNat) ∧
        (r = 2 → v.toNat = s.rdata.toNat) ∧
        (r = 3 → v.toNat = s.crc.toNat + 256 * s.pecrx.toNat)) ∧
    (∀ r v, r ≠ 0 → s.inputs = .host (.write r v) :: rest → step s = .next { s with inputs := rest })

/-- R18: no host access of any kind is accepted while `seq` is not IDLE. -/
def Obligations.BusyBlockAcceptsNoHostAccess : Prop :=
  ∀ s t : State, s.seq ≠ .idle → step s = .next t →
    waitingAccesses t = waitingAccesses s ∧ t.hostReads = s.hostReads

/-- R71(a), R75: the machine stops exactly where the spec's block is stuck, and it never refuses (log entry 9). -/
def Obligations.StepStopsExactlyWhenStuck : Prop :=
  ∀ s : State,
    (∀ f, step s = .fault f ↔
      s.seq ≠ .idle ∧ s.prompt = false ∧ (∀ i ∈ s.inputs, ∃ a, i = .host a) ∧
      f = if s.seq = .settle then .tickNeverArrives else .primitiveNeverReturns s.seq) ∧
    (∀ r, step s ≠ .refused r)

/-- R110: `rst` puts every element of the block, and the trace, at its reset value, from IDLE and in the middle of a command; the
parameters and the outside world keep theirs (R111, log entry 7). After it the block waits for the first command. -/
def Obligations.RstPutsEveryElementAtReset : Prop :=
  ∀ (s t : State) (rest : List Input),
    (s.seq = .idle ∧ s.inputs = .rst :: rest) ∨
      (s.seq ≠ .idle ∧ s.prompt = false ∧ takeEvent s.inputs = some (.rst, rest)) →
    step s = .next t →
    t.ready = false ∧ t.crc = 0x00 ∧ t.addr = 0x00 ∧ t.wdata = 0x0000 ∧ t.rdata = 0x0000 ∧ t.pecrx = 0x00 ∧
    t.rvalid = false ∧ t.pecerr = false ∧ t.err = 0 ∧ t.seq = .idle ∧ t.ee = .idle ∧ t.settle.value = 0 ∧ t.trace = [] ∧
    t.settle.ticks = s.settle.ticks ∧ t.cfg = s.cfg ∧ t.prompt = s.prompt ∧ t.inputs = rest ∧ t.rx = s.rx ∧ t.drawn = s.drawn ∧ t.hostReads = s.hostReads ∧
    t.record = { s.record with abandoned := s.record.abandoned || decide (s.seq ≠ .idle) } ∧
    (rest = [] → step t = .next t)

/-- R23, R110: the machine right after reset. -/
def Obligations.ResetStateIsTheTables : Prop :=
  State.reset.ready = false ∧ State.reset.crc = 0x00 ∧ State.reset.addr = 0x00 ∧ State.reset.wdata = 0x0000 ∧
  State.reset.rdata = 0x0000 ∧ State.reset.pecrx = 0x00 ∧ State.reset.rvalid = false ∧ State.reset.pecerr = false ∧
  State.reset.err = 0 ∧ State.reset.seq = .idle ∧ State.reset.ee = .idle ∧ State.reset.settle.value = 0 ∧ State.reset.trace = []

/-- R11: `ready` is set only by INIT and cleared only by `rst`, over every step. -/
def Obligations.ReadyChangesOnlyByInitAndRst : Prop :=
  ∀ s t : State, step s = .next t →
    (s.ready = false → t.ready = true →
      s.seq = .inSession ∨ s.inputs.head? = some (.host (.write 0 0x10000000))) ∧
    (s.ready = true → t.ready = false →
      (s.seq = .idle ∧ s.inputs.head? = some .rst) ∨
      (s.seq ≠ .idle ∧ ∃ rest, takeEvent s.inputs = some (.rst, rest)))

/-- R31, R42: the trace is one total order: a step only appends to it, but for `rst`, after which it is empty. -/
def Obligations.TraceOnlyGrows : Prop :=
  ∀ s t : State, step s = .next t →
    s.trace <+: t.trace ∨
    (t.trace = [] ∧ ((s.seq = .idle ∧ s.inputs.head? = some .rst) ∨
      (s.seq ≠ .idle ∧ ∃ rest, takeEvent s.inputs = some (.rst, rest))))

/-- The invariant of the sequencer holds after reset. -/
def Obligations.ResetMeetsTheSequencerInvariant : Prop := SequencerInv State.reset

/-- The invariant of the sequencer is kept by every step: `ee` and `seq` agree (R74), the settle counter stays within its bound
(R75), `err` stays a legal code (R17), `crc` is the PEC of the frame being sent (R65), the address is an admitted one (R52). -/
def Obligations.EveryStepKeepsTheSequencerInvariant : Prop :=
  ∀ s t : State, SequencerInv s → step s = .next t → SequencerInv t

/-- The rule of the repeated start holds after reset. -/
def Obligations.ResetMeetsTheRestartRule : Prop := RestartInv State.reset

/-- R116, R40: over every step, nothing ever comes between `EndTx(stop = false)` and `RequestRead(0x5A, 3)` on the bus (in which
phase the trace ends in `EndTx(stop = false)` is log entry 10, DEDUCED). -/
def Obligations.EveryStepKeepsTheRestartRule : Prop :=
  ∀ s t : State, RestartInv s → step s = .next t → RestartInv t

/-! ## With a well-behaved sensor (environment assumption R38 to R41, log entry 11) -/

/-- R39, R41, R76: a settled sensor known to answer at DEV_ADDR, on a started transport with a free bus, is known to hold the value
after an EEUPD, and to hold the other registers as before, unless the register is `smbus_add_lsb` (U11). -/
def Obligations.SensorHoldsTheUpdatedWord : Prop :=
  ∀ (s t : State) (a : Byte) (w : Half) (sn : Sensor), s.Idle → s.prompt = true → writable a = true → a ≠ 0x2E →
    sn.InService → exec (.eeupd a w) s = .next t →
    ∃ events, t.trace = s.trace ++ events ∧
      wordAt (observeAll sn events).known a.toNat = some w ∧
      (∀ b : Byte, b ≠ a → wordAt (observeAll sn events).known b.toNat = wordAt sn.known b.toNat) ∧
      (observeAll sn events).InService

/-- R123, E2: the verifying read-back. If the bytes of an EEUPD followed by a RDREG of the same address are those of a well-behaved
sensor in service, `rdata` is the word written, whatever was there before; and if its PEC covers MLX's four bytes, `pecerr` is 0 and
the read succeeds under both values of PEC_ENFORCE. `smbus_add_lsb` is excepted (U11: every byte may come, the next statement). -/
def Obligations.ReadBackGivesTheUpdatedWord : Prop :=
  ∀ (s t u : State) (a : Byte) (w : Half) (sn : Sensor) (cover : Byte → Byte → Byte → Byte),
    s.Idle → s.prompt = true → writable a = true → a ≠ 0x2E → sn.InService →
    exec (.eeupd a w) s = .next t → exec (.rdreg a) t = .next u →
    (∀ events, u.trace = s.trace ++ events → allowsTrace cover sn events = true) →
    u.rdata = w ∧
    ((∀ l h, cover a l h = crc8 [0xB5, a, l, h]) → u.pecerr = false ∧ u.rvalid = true ∧ u.err = 0)

/-- The model's choice for U11, U1, U8, U7 and N7 (log entry 11): after a write frame to `smbus_add_lsb` from any state of the sensor,
settled or not (R120), after a transaction begun on a transport not started, after a second `BeginSession` on a transport for which it is
not harmless, after a read where reads may have side effects, and after a transaction begun behind a read that need not free the bus,
every trace that follows is one the sensor allows: every byte may come. -/
def Obligations.NothingIsAssumedAfterAnUnknownReaction : Prop :=
  ∀ (sn : Sensor) (w : Half) (a b0 b1 b2 p : Byte) (before after : List Event) (cover : Byte → Byte → Byte → Byte),
    (before = writeEvents 0x2E w ∨
      (before = [.beginTx 0x5A] ∧ sn.started = false) ∨
      (before = [.beginSession] ∧ sn.started = true ∧ sn.againHarmless = false) ∨
      (before = readEvents a b0 b1 b2 ∧ sn.readKeepsWords = false) ∨
      (before = readEvents a b0 b1 b2 ++ [.beginTx 0x5A] ∧ sn.readFreesBus = false)) →
    allowsTrace cover (observeAll sn before) after = true ∧
    mayDeliver cover (observeAll sn (before ++ after)) p = true

/-- R111, R112 with U10 (what the observer keeps is log entry 11): over a step that takes no `rst` it takes the events the step appended;
an `rst` in IDLE leaves what it knows; after an `rst` in the middle of a command, in any phase, every trace that follows is one the
sensor allows. -/
def Obligations.ResetInMidCommandLeavesNothingKnown : Prop :=
  ∀ (s t : State) (sn : Sensor) (p : Byte) (after : List Event) (cover : Byte → Byte → Byte → Byte), step s = .next t →
    (takesRst s = false → ∃ events, t.trace = s.trace ++ events ∧ observeStep s t sn = observeAll sn events) ∧
    (s.seq = .idle → s.inputs.head? = some .rst → observeStep s t sn = sn) ∧
    (∀ rest, s.seq ≠ .idle → s.prompt = false → takeEvent s.inputs = some (.rst, rest) →
      allowsTrace cover (observeStep s t sn) after = true ∧
      mayDeliver cover (observeAll (observeStep s t sn) after) p = true)

/-! ## Outside the block: syntax and conversions -/

/-- R53: a value that fits is encoded; one that does not fit is an assembly error, not a truncation. -/
def Obligations.AssemblyChecksEveryWidth : Prop :=
  ∀ v w : Nat,
    assemble (.rdreg v) = (if v < 256 then .ok [encode (.rdreg (BitVec.ofNat 8 v))] else .error .doesNotFit) ∧
    assemble (.wrreg v w) =
      (if v < 256 ∧ w < 65536 then .ok [encode (.wrreg (BitVec.ofNat 8 v) (BitVec.ofNat 16 w))]
       else .error .doesNotFit) ∧
    assemble (.eeupd v w) =
      (if v < 256 ∧ w < 65536 then .ok [encode (.eeupd (BitVec.ofNat 8 v) (BitVec.ofNat 16 w))]
       else .error .doesNotFit) ∧
    assemble (.crcbyte v) = (if v < 256 then .ok [encode (.crcbyte (BitVec.ofNat 8 v))] else .error .doesNotFit) ∧
    assemble (.crcbit v) =
      (if v = 0 then .ok [encode (.crcbit false)] else if v = 1 then .ok [encode (.crcbit true)]
       else .error .doesNotFit) ∧
    assemble (.word v) = (if v < 2 ^ 32 then .ok [BitVec.ofNat 32 v] else .error .doesNotFit) ∧
    assemble .init = .ok [encode .init] ∧ assemble .crcclr = .ok [encode .crcclr]

/-- R86 to R88 (the examples E2 and E7): the emissivity word is the exact quotient rounded down, 0 and 1 go to the two ends, and
decoding gives the ratio back within 1/65535. -/
def Obligations.EmissivityRoundTrip : Prop :=
  ∀ num den : Nat, 0 < den → num ≤ den →
    ∃ w, emissivityWord num den = some w ∧
      w.toNat * den ≤ num * 65535 ∧ num * 65535 < (w.toNat + 1) * den ∧
      (num = 0 → w = 0x0000) ∧ (num = den → w = 0xFFFF) ∧
      emissivityRatio w ≤ (num : Rat) / den ∧ (num : Rat) / den < emissivityRatio w + 1 / 65535

/-- R88: the exact integer forms of R84 and R85, their ranges, and the example raw = 25785 (90_conflicts.md C1). -/
def Obligations.TemperatureIntegerForms : Prop :=
  (∀ raw : Half, kelvin raw = (centiKelvin raw : Rat) / 100 ∧ celsius raw = (centiCelsius raw : Rat) / 100 ∧
    centiKelvin raw ≤ 131070 ∧ -27315 ≤ centiCelsius raw ∧ centiCelsius raw ≤ 103755) ∧
  centiKelvin 25785 = 51570 ∧ centiCelsius 25785 = 24255
end

