-- ==== Sys2Proof/Laws/State.lean ====
section
/-! SUPPORT. One lemma per field per update, so that no later proof unfolds a record update. -/

namespace Sys2Proof.Machine

variable (s : State)

/-! ## The settle counter (R10, R75): its width holds SETTLE_TICKS, so loading it loses nothing and counting down does not wrap -/

@[simp] theorem SettleTimer.load_ticks (t : SettleTimer) : t.load.ticks = t.ticks := rfl
@[simp] theorem SettleTimer.countDown_ticks (t : SettleTimer) : t.countDown.ticks = t.ticks := rfl
@[simp] theorem SettleTimer.clear_ticks (t : SettleTimer) : t.clear.ticks = t.ticks := rfl
@[simp] theorem SettleTimer.clear_value (t : SettleTimer) : t.clear.value = 0 := rfl

theorem SettleTimer.ticks_fit (t : SettleTimer) : t.ticks < 2 ^ Nat.clog 2 (t.ticks + 1) :=
  Nat.le_pow_clog (by decide) (t.ticks + 1)

@[simp] theorem SettleTimer.load_value (t : SettleTimer) : t.load.value = t.ticks :=
  (BitVec.toNat_ofNat _ _).trans (Nat.mod_eq_of_lt t.ticks_fit)

theorem SettleTimer.countDown_value {t : SettleTimer} (h : 1 ≤ t.value) : t.countDown.value = t.value - 1 := by
  show (t.count - 1).toNat = t.count.toNat - 1
  have hw : 1 < 2 ^ Nat.clog 2 (t.ticks + 1) := lt_of_le_of_lt h t.count.isLt
  have h1 : (1 : BitVec (Nat.clog 2 (t.ticks + 1))).toNat = 1 :=
    (BitVec.toNat_ofNat _ _).trans (Nat.mod_eq_of_lt hw)
  rw [BitVec.toNat_sub_of_le (by rw [BitVec.le_def, h1]; exact h), h1]

/-- The parameter and the number are all there is of the counter. -/
theorem SettleTimer.eq_of_value {t u : SettleTimer} (ht : t.ticks = u.ticks) (hv : t.value = u.value) : t = u := by
  obtain ⟨n, c⟩ := t
  obtain ⟨m, d⟩ := u
  obtain rfl : n = m := ht
  exact congrArg (SettleTimer.mk n) (BitVec.eq_of_toNat_eq hv)

theorem SettleTimer.load_clear (t : SettleTimer) : t.load.clear = t.clear := rfl

theorem SettleTimer.clear_load (t : SettleTimer) : t.clear.load = t.load := rfl

theorem SettleTimer.clear_of_zero {t : SettleTimer} (h : t.value = 0) : t.clear = t :=
  SettleTimer.eq_of_value rfl h.symm

/-! ## complete -/

@[simp] theorem complete_ready : (complete s).ready = s.ready := rfl
@[simp] theorem complete_crc : (complete s).crc = s.crc := rfl
@[simp] theorem complete_addr : (complete s).addr = s.addr := rfl
@[simp] theorem complete_wdata : (complete s).wdata = s.wdata := rfl
@[simp] theorem complete_rdata : (complete s).rdata = s.rdata := rfl
@[simp] theorem complete_pecrx : (complete s).pecrx = s.pecrx := rfl
@[simp] theorem complete_rvalid : (complete s).rvalid = s.rvalid := rfl
@[simp] theorem complete_pecerr : (complete s).pecerr = s.pecerr := rfl
@[simp] theorem complete_err : (complete s).err = 0 := rfl
@[simp] theorem complete_seq : (complete s).seq = s.seq := rfl
@[simp] theorem complete_ee : (complete s).ee = s.ee := rfl
@[simp] theorem complete_settle : (complete s).settle = s.settle := rfl
@[simp] theorem complete_trace : (complete s).trace = s.trace := rfl
@[simp] theorem complete_cfg : (complete s).cfg = s.cfg := rfl
@[simp] theorem complete_prompt : (complete s).prompt = s.prompt := rfl
@[simp] theorem complete_inputs : (complete s).inputs = s.inputs := rfl
@[simp] theorem complete_rx : (complete s).rx = s.rx := rfl
@[simp] theorem complete_drawn : (complete s).drawn = s.drawn := rfl
@[simp] theorem complete_hostReads : (complete s).hostReads = s.hostReads := rfl
@[simp] theorem complete_record : (complete s).record = s.record := rfl

/-! ## raise -/

@[simp] theorem raise_ready (e : Err) : (raise e s).ready = s.ready := rfl
@[simp] theorem raise_crc (e : Err) : (raise e s).crc = s.crc := rfl
@[simp] theorem raise_addr (e : Err) : (raise e s).addr = s.addr := rfl
@[simp] theorem raise_wdata (e : Err) : (raise e s).wdata = s.wdata := rfl
@[simp] theorem raise_rdata (e : Err) : (raise e s).rdata = s.rdata := rfl
@[simp] theorem raise_pecrx (e : Err) : (raise e s).pecrx = s.pecrx := rfl
@[simp] theorem raise_rvalid (e : Err) : (raise e s).rvalid = s.rvalid := rfl
@[simp] theorem raise_pecerr (e : Err) : (raise e s).pecerr = s.pecerr := rfl
@[simp] theorem raise_err (e : Err) : (raise e s).err = errCode e := rfl
@[simp] theorem raise_seq (e : Err) : (raise e s).seq = .idle := rfl
@[simp] theorem raise_ee (e : Err) : (raise e s).ee = .idle := rfl
@[simp] theorem raise_settle (e : Err) : (raise e s).settle = s.settle := rfl
@[simp] theorem raise_trace (e : Err) : (raise e s).trace = s.trace := rfl
@[simp] theorem raise_cfg (e : Err) : (raise e s).cfg = s.cfg := rfl
@[simp] theorem raise_prompt (e : Err) : (raise e s).prompt = s.prompt := rfl
@[simp] theorem raise_inputs (e : Err) : (raise e s).inputs = s.inputs := rfl
@[simp] theorem raise_rx (e : Err) : (raise e s).rx = s.rx := rfl
@[simp] theorem raise_drawn (e : Err) : (raise e s).drawn = s.drawn := rfl
@[simp] theorem raise_hostReads (e : Err) : (raise e s).hostReads = s.hostReads := rfl
@[simp] theorem raise_record (e : Err) : (raise e s).record = { s.record with failed := true } := rfl

/-! ## noteUse -/

@[simp] theorem noteUse_ready : (noteUse s).ready = s.ready := rfl
@[simp] theorem noteUse_crc : (noteUse s).crc = s.crc := rfl
@[simp] theorem noteUse_addr : (noteUse s).addr = s.addr := rfl
@[simp] theorem noteUse_wdata : (noteUse s).wdata = s.wdata := rfl
@[simp] theorem noteUse_rdata : (noteUse s).rdata = s.rdata := rfl
@[simp] theorem noteUse_pecrx : (noteUse s).pecrx = s.pecrx := rfl
@[simp] theorem noteUse_rvalid : (noteUse s).rvalid = s.rvalid := rfl
@[simp] theorem noteUse_pecerr : (noteUse s).pecerr = s.pecerr := rfl
@[simp] theorem noteUse_err : (noteUse s).err = s.err := rfl
@[simp] theorem noteUse_seq : (noteUse s).seq = s.seq := rfl
@[simp] theorem noteUse_ee : (noteUse s).ee = s.ee := rfl
@[simp] theorem noteUse_settle : (noteUse s).settle = s.settle := rfl
@[simp] theorem noteUse_trace : (noteUse s).trace = s.trace := rfl
@[simp] theorem noteUse_cfg : (noteUse s).cfg = s.cfg := rfl
@[simp] theorem noteUse_prompt : (noteUse s).prompt = s.prompt := rfl
@[simp] theorem noteUse_inputs : (noteUse s).inputs = s.inputs := rfl
@[simp] theorem noteUse_rx : (noteUse s).rx = s.rx := rfl
@[simp] theorem noteUse_drawn : (noteUse s).drawn = s.drawn := rfl
@[simp] theorem noteUse_hostReads : (noteUse s).hostReads = s.hostReads := rfl
@[simp] theorem noteUse_record : (noteUse s).record = { s.record with usedBeforeInit := s.record.usedBeforeInit || !s.ready } := rfl

/-! ## emit -/

@[simp] theorem emit_ready (e : Event) : (emit e s).ready = s.ready := rfl
@[simp] theorem emit_crc (e : Event) : (emit e s).crc = s.crc := rfl
@[simp] theorem emit_addr (e : Event) : (emit e s).addr = s.addr := rfl
@[simp] theorem emit_wdata (e : Event) : (emit e s).wdata = s.wdata := rfl
@[simp] theorem emit_rdata (e : Event) : (emit e s).rdata = s.rdata := rfl
@[simp] theorem emit_pecrx (e : Event) : (emit e s).pecrx = s.pecrx := rfl
@[simp] theorem emit_rvalid (e : Event) : (emit e s).rvalid = s.rvalid := rfl
@[simp] theorem emit_pecerr (e : Event) : (emit e s).pecerr = s.pecerr := rfl
@[simp] theorem emit_err (e : Event) : (emit e s).err = s.err := rfl
@[simp] theorem emit_seq (e : Event) : (emit e s).seq = s.seq := rfl
@[simp] theorem emit_ee (e : Event) : (emit e s).ee = s.ee := rfl
@[simp] theorem emit_settle (e : Event) : (emit e s).settle = s.settle := rfl
@[simp] theorem emit_trace (e : Event) : (emit e s).trace = s.trace ++ [e] := rfl
@[simp] theorem emit_cfg (e : Event) : (emit e s).cfg = s.cfg := rfl
@[simp] theorem emit_prompt (e : Event) : (emit e s).prompt = s.prompt := rfl
@[simp] theorem emit_inputs (e : Event) : (emit e s).inputs = s.inputs := rfl
@[simp] theorem emit_rx (e : Event) : (emit e s).rx = s.rx := rfl
@[simp] theorem emit_drawn (e : Event) : (emit e s).drawn = s.drawn := rfl
@[simp] theorem emit_hostReads (e : Event) : (emit e s).hostReads = s.hostReads := rfl
@[simp] theorem emit_record (e : Event) : (emit e s).record = s.record := rfl

/-! ## enter -/

@[simp] theorem enter_ready (p : Phase) : (enter p s).ready = s.ready := rfl
@[simp] theorem enter_crc (p : Phase) : (enter p s).crc = s.crc := rfl
@[simp] theorem enter_addr (p : Phase) : (enter p s).addr = s.addr := rfl
@[simp] theorem enter_wdata (p : Phase) : (enter p s).wdata = s.wdata := rfl
@[simp] theorem enter_rdata (p : Phase) : (enter p s).rdata = s.rdata := rfl
@[simp] theorem enter_pecrx (p : Phase) : (enter p s).pecrx = s.pecrx := rfl
@[simp] theorem enter_rvalid (p : Phase) : (enter p s).rvalid = s.rvalid := rfl
@[simp] theorem enter_pecerr (p : Phase) : (enter p s).pecerr = s.pecerr := rfl
@[simp] theorem enter_err (p : Phase) : (enter p s).err = s.err := rfl
@[simp] theorem enter_seq (p : Phase) : (enter p s).seq = p := rfl
@[simp] theorem enter_ee (p : Phase) : (enter p s).ee = s.ee := rfl
@[simp] theorem enter_settle (p : Phase) : (enter p s).settle = s.settle := rfl
@[simp] theorem enter_trace (p : Phase) : (enter p s).trace = s.trace ++ callEvent p s := rfl
@[simp] theorem enter_cfg (p : Phase) : (enter p s).cfg = s.cfg := rfl
@[simp] theorem enter_prompt (p : Phase) : (enter p s).prompt = s.prompt := rfl
@[simp] theorem enter_inputs (p : Phase) : (enter p s).inputs = s.inputs := rfl
@[simp] theorem enter_rx (p : Phase) : (enter p s).rx = s.rx := rfl
@[simp] theorem enter_drawn (p : Phase) : (enter p s).drawn = s.drawn := rfl
@[simp] theorem enter_hostReads (p : Phase) : (enter p s).hostReads = s.hostReads := rfl
@[simp] theorem enter_record (p : Phase) : (enter p s).record = s.record := rfl

/-! ## beginSettle -/

@[simp] theorem beginSettle_ready : (beginSettle s).ready = s.ready := rfl
@[simp] theorem beginSettle_crc : (beginSettle s).crc = s.crc := rfl
@[simp] theorem beginSettle_addr : (beginSettle s).addr = s.addr := rfl
@[simp] theorem beginSettle_wdata : (beginSettle s).wdata = s.wdata := rfl
@[simp] theorem beginSettle_rdata : (beginSettle s).rdata = s.rdata := rfl
@[simp] theorem beginSettle_pecrx : (beginSettle s).pecrx = s.pecrx := rfl
@[simp] theorem beginSettle_rvalid : (beginSettle s).rvalid = s.rvalid := rfl
@[simp] theorem beginSettle_pecerr : (beginSettle s).pecerr = s.pecerr := rfl
@[simp] theorem beginSettle_err : (beginSettle s).err = s.err := rfl
@[simp] theorem beginSettle_seq : (beginSettle s).seq = .settle := rfl
@[simp] theorem beginSettle_ee : (beginSettle s).ee = settlingAfter s.ee := rfl
@[simp] theorem beginSettle_settle : (beginSettle s).settle = s.settle.load := rfl
@[simp] theorem beginSettle_trace : (beginSettle s).trace = s.trace := rfl
@[simp] theorem beginSettle_cfg : (beginSettle s).cfg = s.cfg := rfl
@[simp] theorem beginSettle_prompt : (beginSettle s).prompt = s.prompt := rfl
@[simp] theorem beginSettle_inputs : (beginSettle s).inputs = s.inputs := rfl
@[simp] theorem beginSettle_rx : (beginSettle s).rx = s.rx := rfl
@[simp] theorem beginSettle_drawn : (beginSettle s).drawn = s.drawn := rfl
@[simp] theorem beginSettle_hostReads : (beginSettle s).hostReads = s.hostReads := rfl
@[simp] theorem beginSettle_record : (beginSettle s).record = s.record := rfl

/-! ## applyReset -/

@[simp] theorem applyReset_ready : (applyReset s).ready = false := rfl
@[simp] theorem applyReset_crc : (applyReset s).crc = 0 := rfl
@[simp] theorem applyReset_addr : (applyReset s).addr = 0 := rfl
@[simp] theorem applyReset_wdata : (applyReset s).wdata = 0 := rfl
@[simp] theorem applyReset_rdata : (applyReset s).rdata = 0 := rfl
@[simp] theorem applyReset_pecrx : (applyReset s).pecrx = 0 := rfl
@[simp] theorem applyReset_rvalid : (applyReset s).rvalid = false := rfl
@[simp] theorem applyReset_pecerr : (applyReset s).pecerr = false := rfl
@[simp] theorem applyReset_err : (applyReset s).err = 0 := rfl
@[simp] theorem applyReset_seq : (applyReset s).seq = .idle := rfl
@[simp] theorem applyReset_ee : (applyReset s).ee = .idle := rfl
@[simp] theorem applyReset_settle : (applyReset s).settle = s.settle.clear := rfl
@[simp] theorem applyReset_trace : (applyReset s).trace = [] := rfl
@[simp] theorem applyReset_cfg : (applyReset s).cfg = s.cfg := rfl
@[simp] theorem applyReset_prompt : (applyReset s).prompt = s.prompt := rfl
@[simp] theorem applyReset_inputs : (applyReset s).inputs = s.inputs := rfl
@[simp] theorem applyReset_rx : (applyReset s).rx = s.rx := rfl
@[simp] theorem applyReset_drawn : (applyReset s).drawn = s.drawn := rfl
@[simp] theorem applyReset_hostReads : (applyReset s).hostReads = s.hostReads := rfl
@[simp] theorem applyReset_record : (applyReset s).record = { s.record with abandoned := s.record.abandoned || (s.seq != .idle) } := rfl

/-! ## rxDrop: only the transport's two fields change -/

@[simp] theorem rxDrop_ready : (rxDrop s).ready = s.ready := by unfold rxDrop; split <;> rfl
@[simp] theorem rxDrop_crc : (rxDrop s).crc = s.crc := by unfold rxDrop; split <;> rfl
@[simp] theorem rxDrop_addr : (rxDrop s).addr = s.addr := by unfold rxDrop; split <;> rfl
@[simp] theorem rxDrop_wdata : (rxDrop s).wdata = s.wdata := by unfold rxDrop; split <;> rfl
@[simp] theorem rxDrop_rdata : (rxDrop s).rdata = s.rdata := by unfold rxDrop; split <;> rfl
@[simp] theorem rxDrop_pecrx : (rxDrop s).pecrx = s.pecrx := by unfold rxDrop; split <;> rfl
@[simp] theorem rxDrop_rvalid : (rxDrop s).rvalid = s.rvalid := by unfold rxDrop; split <;> rfl
@[simp] theorem rxDrop_pecerr : (rxDrop s).pecerr = s.pecerr := by unfold rxDrop; split <;> rfl
@[simp] theorem rxDrop_err : (rxDrop s).err = s.err := by unfold rxDrop; split <;> rfl
@[simp] theorem rxDrop_seq : (rxDrop s).seq = s.seq := by unfold rxDrop; split <;> rfl
@[simp] theorem rxDrop_ee : (rxDrop s).ee = s.ee := by unfold rxDrop; split <;> rfl
@[simp] theorem rxDrop_settle : (rxDrop s).settle = s.settle := by unfold rxDrop; split <;> rfl
@[simp] theorem rxDrop_trace : (rxDrop s).trace = s.trace := by unfold rxDrop; split <;> rfl
@[simp] theorem rxDrop_cfg : (rxDrop s).cfg = s.cfg := by unfold rxDrop; split <;> rfl
@[simp] theorem rxDrop_prompt : (rxDrop s).prompt = s.prompt := by unfold rxDrop; split <;> rfl
@[simp] theorem rxDrop_inputs : (rxDrop s).inputs = s.inputs := by unfold rxDrop; split <;> rfl
@[simp] theorem rxDrop_hostReads : (rxDrop s).hostReads = s.hostReads := by unfold rxDrop; split <;> rfl
@[simp] theorem rxDrop_record : (rxDrop s).record = s.record := by unfold rxDrop; split <;> rfl

theorem rxDrop_cons {b : Byte} {r : List Byte} (h : s.rx = b :: r) : rxDrop s = { s with rx := r } := by simp [rxDrop, h]

theorem rxDrop_nil (h : s.rx = []) : rxDrop s = { s with drawn := s.drawn + 1 } := by simp [rxDrop, h]


end Sys2Proof.Machine
end

