-- ==== Sys2Proof/Laws/Ops.lean ====
section
/-! SUPPORT. What each shared operation can do, said once: bytes and words, the transport's bytes, the phases, the frames run to
their end, and that no command's meaning stops. -/

namespace Sys2Proof.Machine

/-! ## Bytes and words (R36, R48) -/

theorem joinWord_getLsbD (b0 b1 : Byte) (i : Nat) :
    (joinWord b0 b1).getLsbD i = if i < 8 then b0.getLsbD i else b1.getLsbD (i - 8) := by
  have h := BitVec.getLsbD_append (x := b1) (y := b0) (i := i)
  rw [← h]
  rfl

theorem lo_getLsbD (w : Half) (i : Nat) (h : i < 8) : (lo w).getLsbD i = w.getLsbD i := by
  simp [lo, h]

theorem hi_getLsbD (w : Half) (i : Nat) (h : i < 8) : (hi w).getLsbD i = w.getLsbD (8 + i) := by
  simp [hi, h]

@[simp] theorem lo_joinWord (b0 b1 : Byte) : lo (joinWord b0 b1) = b0 := by
  apply BitVec.eq_of_getLsbD_eq
  intro i h
  rw [lo_getLsbD _ _ h, joinWord_getLsbD, if_pos h]

@[simp] theorem hi_joinWord (b0 b1 : Byte) : hi (joinWord b0 b1) = b1 := by
  apply BitVec.eq_of_getLsbD_eq
  intro i h
  rw [hi_getLsbD _ _ h, joinWord_getLsbD, if_neg (by omega), Nat.add_sub_cancel_left]

@[simp] theorem joinWord_lo_hi (w : Half) : joinWord (lo w) (hi w) = w := by
  apply BitVec.eq_of_getLsbD_eq
  intro i h
  rw [joinWord_getLsbD]
  split
  · next h8 => exact lo_getLsbD w i h8
  · next h8 => rw [hi_getLsbD _ _ (by omega), Nat.add_sub_cancel' (by omega)]

@[simp] theorem setHi_setLo (w : Half) (b0 b1 : Byte) : setHi (setLo w b0) b1 = joinWord b0 b1 := by
  simp [setHi, setLo]

theorem devW_eq : devW = 0xB4 := by decide

theorem devR_eq : devR = 0xB5 := by decide

/-! ## The transport's bytes -/

@[simp] theorem rxByte_eq (s : State) : rxByte s = rxAt s 0 := by
  unfold rxByte rxAt
  cases h : s.rx <;> simp

theorem rxDrop_eq (s : State) : rxDrop s = rxSkip 1 s := by
  cases h : s.rx <;> simp [rxDrop, rxSkip, h]

theorem rxAt_skip (s : State) (n k : Nat) : rxAt (rxSkip n s) k = rxAt s (n + k) := by
  simp only [rxAt, rxSkip, List.getElem?_drop, List.length_drop]
  cases h : s.rx[n + k]? with
  | some b => rfl
  | none =>
    have : s.rx.length ≤ n + k := by simpa using h
    have e : s.drawn + (n - s.rx.length) + (k - (s.rx.length - n)) = s.drawn + (n + k - s.rx.length) := by omega
    simp only [e]

theorem rxSkip_add (s : State) (m n : Nat) : rxSkip n (rxSkip m s) = rxSkip (m + n) s := by
  simp only [rxSkip, List.drop_drop, List.length_drop, State.mk.injEq, true_and, and_true]
  omega

/-- The next byte depends on the transport's two fields only. -/
theorem rxAt_congr {s t : State} (hr : s.rx = t.rx) (hd : s.drawn = t.drawn) (k : Nat) : rxAt s k = rxAt t k := by
  simp [rxAt, hr, hd]

/-! ## The phases (R15, R70) -/

theorem advance_idle {s : State} (h : s.seq = .idle) : advance s = s := by simp [advance, primitiveReturn, h]

theorem advance_settle {s : State} (h : s.seq = .settle) : advance s = settleDone { s with settle := s.settle.clear } := by
  simp [advance, h]

theorem advance_busy {s : State} (h : s.seq ≠ .settle) : advance s = primitiveReturn s := by simp [advance, h]

theorem advanceN_succ (n : Nat) (s : State) : advanceN (n + 1) s = advanceN n (advance s) := by
  rw [advanceN]
  split
  · next h =>
    rw [advance_idle h]
    cases n with
    | zero => rfl
    | succ n => rw [advanceN, if_pos h]
  · rfl

theorem advanceN_idle {s : State} (n : Nat) (h : s.seq = .idle) : advanceN n s = s := by
  cases n with
  | zero => rfl
  | succ n => rw [advanceN, if_pos h]

theorem advanceN_add (m n : Nat) (s : State) : advanceN (m + n) s = advanceN n (advanceN m s) := by
  induction m generalizing s with
  | zero => simp [advanceN]
  | succ m ih => rw [Nat.succ_add, advanceN_succ, advanceN_succ, ih]

theorem finish_idle {s : State} (h : s.seq = .idle) : finish s = s := advanceN_idle _ h

/-- A command that reaches IDLE in `n` phases, `n` at most 14, has then finished. -/
theorem finish_eq {s t : State} (n : Nat) (hn : n ≤ longestCommand) (h : advanceN n s = t) (ht : t.seq = .idle) :
    finish s = t := by
  obtain ⟨k, hk⟩ := Nat.exists_eq_add_of_le hn
  rw [finish, hk, advanceN_add, h, advanceN_idle _ ht]

@[simp] theorem pecCheck_seq (s : State) (h : s.seq = .idle) : (pecCheck s).seq = .idle := by
  simp only [pecCheck]
  split <;> simp [h]

/-! ## The frames run to their end (R64, R65, R72) -/

/-- The read frame from its first primitive to the PEC check (R64). -/
theorem finish_read (s : State) :
    finish (enter .rdBegin s) =
      pecCheck { s with
        seq := .idle
        rdata := joinWord (rxAt s 0) (rxAt s 1)
        pecrx := rxAt s 2
        rx := s.rx.drop 3
        drawn := s.drawn + (3 - s.rx.length)
        trace := s.trace ++ readEvents s.addr (rxAt s 0) (rxAt s 1) (rxAt s 2) } := by
  refine finish_eq 7 (by decide) ?_ (pecCheck_seq _ rfl)
  obtain ⟨_, _, _, _, _, _, _, _, _, _, _, _, _, _, _, _, rx, _, _, _⟩ := s
  rcases rx with _ | ⟨x, _ | ⟨y, _ | ⟨z, r⟩⟩⟩ <;>
    simp [advanceN, advance, primitiveReturn, enter, takeLo, takeHi, takePec, callEvent, rxDrop, rxByte, rxAt, readEvents,
      Config.devAddr, Config.readLen, setHi, setLo]

/-- One write frame of a WRREG (R65, R68). -/
theorem finish_write (s : State) (h : s.ee = .idle) :
    finish (beginWrite s) =
      complete { s with
        seq := .idle
        crc := crc8 [0xB4, s.addr, lo s.wdata, hi s.wdata]
        trace := s.trace ++ writeEvents s.addr s.wdata } := by
  refine finish_eq 6 (by decide) ?_ rfl
  simp [advanceN, advance, primitiveReturn, beginWrite, enter, callEvent, frameWord, h, writePec, writePayload, devW_eq,
    writeEvents, Config.devAddr]

/-- The whole sequence of an EEUPD (R72). -/
theorem finish_update (s : State) (h : s.ee = .erasing) :
    finish (beginWrite s) =
      complete { s with
        seq := .idle
        ee := .idle
        settle := s.settle.clear
        crc := crc8 [0xB4, s.addr, lo s.wdata, hi s.wdata]
        trace := s.trace ++ updateEvents s.addr s.wdata s.settle.ticks } := by
  refine finish_eq 14 (by decide) ?_ rfl
  simp [advanceN, advance, primitiveReturn, beginWrite, enter, callEvent, frameWord, h, writePec, writePayload, devW_eq,
    writeEvents, updateEvents, Config.devAddr, Config.eraseValue, beginSettle, settlingAfter, settleDone, emit, complete,
    SettleTimer.load_clear, SettleTimer.clear_load]

end Sys2Proof.Machine
end

