-- ==== Sys2Proof/Laws/PerInstr.lean ====
section
/-! SUPPORT. Statements about every instruction as syntax, made per constructor. -/

namespace Sys2Proof.Laws

/-- `cmdWord` bit by bit: `{OP, 0000, A, W}` (R46). -/
theorem cmdWord_getLsbD (op : BitVec 4) (a : Byte) (w : Half) (k : Nat) :
    (cmdWord op a w).getLsbD k =
      if k < 16 then w.getLsbD k
      else if k < 24 then a.getLsbD (k - 16)
      else if k < 28 then false
      else op.getLsbD (k - 28) := by
  have h1 := BitVec.getLsbD_append (x := (op ++ (0 : BitVec 4)) ++ a) (y := w) (i := k)
  have h2 := BitVec.getLsbD_append (x := op ++ (0 : BitVec 4)) (y := a) (i := k - 16)
  have h3 := BitVec.getLsbD_append (x := op) (y := (0 : BitVec 4)) (i := k - 16 - 8)
  have h : (cmdWord op a w).getLsbD k = (((op ++ (0 : BitVec 4)) ++ a) ++ w).getLsbD k := rfl
  rw [h, h1, h2, h3]
  split
  · rfl
  · by_cases h24 : k < 24
    · rw [if_pos (by omega), if_pos h24]
    · rw [if_neg (by omega), if_neg h24]
      by_cases h28 : k < 28
      · rw [if_pos (by omega), if_pos h28]
        simp
      · rw [if_neg (by omega), if_neg h28, show k - 16 - 8 - 4 = k - 28 by omega]

@[simp] theorem fieldOp_cmdWord (op : BitVec 4) (a : Byte) (w : Half) : fieldOp (cmdWord op a w) = op := by
  apply BitVec.eq_of_getLsbD_eq
  intro i h
  rw [fieldOp, BitVec.getLsbD_extractLsb', cmdWord_getLsbD, if_neg (by omega), if_neg (by omega), if_neg (by omega)]
  simp [h]

@[simp] theorem fieldZ_cmdWord (op : BitVec 4) (a : Byte) (w : Half) : fieldZ (cmdWord op a w) = 0 := by
  apply BitVec.eq_of_getLsbD_eq
  intro i h
  rw [fieldZ, BitVec.getLsbD_extractLsb', cmdWord_getLsbD, if_neg (by omega), if_neg (by omega), if_pos (by omega)]
  simp

@[simp] theorem fieldA_cmdWord (op : BitVec 4) (a : Byte) (w : Half) : fieldA (cmdWord op a w) = a := by
  apply BitVec.eq_of_getLsbD_eq
  intro i h
  rw [fieldA, BitVec.getLsbD_extractLsb', cmdWord_getLsbD, if_neg (by omega), if_pos (by omega)]
  simp [h]

@[simp] theorem fieldW_cmdWord (op : BitVec 4) (a : Byte) (w : Half) : fieldW (cmdWord op a w) = w := by
  apply BitVec.eq_of_getLsbD_eq
  intro i h
  rw [fieldW, BitVec.getLsbD_extractLsb', cmdWord_getLsbD, if_pos (by omega)]
  simp [h]

/-- A word is its four fields (R46). -/
theorem word_eq_fields (c : Word) (h : fieldZ c = 0) : cmdWord (fieldOp c) (fieldA c) (fieldW c) = c := by
  apply BitVec.eq_of_getLsbD_eq
  intro k hk
  rw [cmdWord_getLsbD]
  split
  · next h16 => simp [fieldW, h16]
  · split
    · next h16 h24 =>
      have e : 16 + (k - 16) = k := by omega
      have l : k - 16 < 8 := by omega
      simp [fieldA, e, l]
    · split
      · next h24 h28 =>
        have e : 24 + (k - 24) = k := by omega
        have l : k - 24 < 4 := by omega
        have hb : (fieldZ c).getLsbD (k - 24) = c.getLsbD k := by simp [fieldZ, e, l]
        rw [← hb, h]
        simp
      · next h28 =>
        have e : 28 + (k - 28) = k := by omega
        have l : k - 28 < 4 := by omega
        simp [fieldOp, e, l]

/-! ## Family RowMatch -/

/-- Family RowMatch: the encoded word is selected by the instruction's own row of R47's table. -/
def RowMatch.Statement (i : Instr) : Prop := i.row.selects (encode i) = true

/-- A word with no operand outside A and W, under a mask that keeps the top byte only. -/
theorem topByte_selects (op : BitVec 4) (a : Byte) (w : Half) :
    cmdWord op a w &&& 0xFF000000 = cmdWord op 0 0 := by
  apply BitVec.eq_of_getLsbD_eq
  intro k hk
  have hm : (0xFF000000 : Word).getLsbD k = decide (24 ≤ k) := by revert k; decide
  simp only [BitVec.getLsbD_and, cmdWord_getLsbD, hm]
  by_cases h16 : k < 16
  · simp [h16, show ¬ 24 ≤ k by omega]
  · by_cases h24 : k < 24
    · simp [h16, h24]
    · simp [h16, h24, show 24 ≤ k by omega]

theorem RowMatch.init : RowMatch.Statement .init := by unfold RowMatch.Statement; decide

theorem RowMatch.rdreg (a : Byte) : RowMatch.Statement (.rdreg a) := by
  revert a
  unfold RowMatch.Statement
  decide

theorem RowMatch.wrreg (a : Byte) (w : Half) : RowMatch.Statement (.wrreg a w) := by
  simp only [RowMatch.Statement, PatternRow.selects, Instr.row, encode, topByte_selects]
  decide

theorem RowMatch.eeupd (a : Byte) (w : Half) : RowMatch.Statement (.eeupd a w) := by
  simp only [RowMatch.Statement, PatternRow.selects, Instr.row, encode, topByte_selects]
  decide

theorem RowMatch.crcclr : RowMatch.Statement .crcclr := by unfold RowMatch.Statement; decide

theorem RowMatch.crcbyte (b : Byte) : RowMatch.Statement (.crcbyte b) := by
  revert b
  unfold RowMatch.Statement
  decide

theorem RowMatch.crcbit (d : Bool) : RowMatch.Statement (.crcbit d) := by
  revert d
  unfold RowMatch.Statement
  decide

end Sys2Proof.Laws
end

