-- ==== Sys2Proof/Laws/Sensor.lean ====
section
/-! SUPPORT. The list of known registers of the sensor observer: reading after learning and forgetting, and its canonical
form; and what an event does to what is known. -/

namespace Sys2Proof.Machine

theorem wordAt_learn_same (a : Nat) (w : Half) (m : List (Nat × Half)) : wordAt (learn a w m) a = some w := by
  induction m with
  | nil => simp [learn, wordAt]
  | cons p rest ih =>
    obtain ⟨b, v⟩ := p
    simp only [learn]
    split
    · simp [wordAt]
    · split
      · simp [wordAt]
      · next h => simp [wordAt, ih, Ne.symm h]

theorem wordAt_learn_other {a c : Nat} (w : Half) (m : List (Nat × Half)) (h : c ≠ a) :
    wordAt (learn a w m) c = wordAt m c := by
  induction m with
  | nil => simp [learn, wordAt, Ne.symm h]
  | cons p rest ih =>
    obtain ⟨b, v⟩ := p
    simp only [learn]
    split
    · simp [wordAt, Ne.symm h]
    · split
      · next hb => subst hb; simp [wordAt, Ne.symm h]
      · simp [wordAt, ih]

theorem wordAt_forget_other {a c : Nat} (m : List (Nat × Half)) (h : c ≠ a) : wordAt (forget a m) c = wordAt m c := by
  induction m with
  | nil => rfl
  | cons p rest ih =>
    obtain ⟨b, v⟩ := p
    simp only [forget]
    split
    · next hb => subst hb; simp [wordAt, Ne.symm h]
    · simp [wordAt, ih]

/-- Every listed address is above `a`. -/
def allAbove (a : Nat) (m : List (Nat × Half)) : Prop := ∀ p ∈ m, a < p.1

theorem knownWf_cons {b : Nat} {v : Half} {m : List (Nat × Half)} :
    knownWf ((b, v) :: m) = true ↔ allAbove b m ∧ knownWf m = true := by
  induction m generalizing b v with
  | nil => simp [knownWf, allAbove]
  | cons p rest ih =>
    obtain ⟨c, u⟩ := p
    simp only [knownWf, Bool.and_eq_true, decide_eq_true_eq]
    constructor
    · rintro ⟨h1, h2⟩
      refine ⟨?_, h2⟩
      intro q hq
      rcases List.mem_cons.mp hq with rfl | hq
      · exact h1
      · exact lt_trans h1 ((ih.mp h2).1 q hq)
    · rintro ⟨h1, h2⟩
      exact ⟨h1 (c, u) (by simp), h2⟩

theorem learn_mem {a : Nat} {w : Half} {m : List (Nat × Half)} {p : Nat × Half} (h : p ∈ learn a w m) :
    p.1 = a ∨ p ∈ m := by
  induction m with
  | nil => simp only [learn, List.mem_singleton] at h; exact .inl (by rw [h])
  | cons q rest ih =>
    obtain ⟨b, v⟩ := q
    simp only [learn] at h
    split at h
    · rcases List.mem_cons.mp h with rfl | h
      · exact .inl rfl
      · exact .inr h
    · split at h
      · rcases List.mem_cons.mp h with rfl | h
        · exact .inl rfl
        · exact .inr (List.mem_cons_of_mem _ h)
      · rcases List.mem_cons.mp h with rfl | h
        · exact .inr (by simp)
        · exact (ih h).imp_right (List.mem_cons_of_mem _)

theorem learn_wf {a : Nat} {w : Half} {m : List (Nat × Half)} (h : knownWf m = true) : knownWf (learn a w m) = true := by
  induction m with
  | nil => rfl
  | cons p rest ih =>
    obtain ⟨b, v⟩ := p
    obtain ⟨h1, h2⟩ := knownWf_cons.mp h
    simp only [learn]
    split
    · next hab =>
      refine knownWf_cons.mpr ⟨?_, h⟩
      intro q hq
      rcases List.mem_cons.mp hq with rfl | hq
      · exact hab
      · exact lt_trans hab (h1 q hq)
    · split
      · next hab => subst hab; exact knownWf_cons.mpr ⟨h1, h2⟩
      · next hab hne =>
        refine knownWf_cons.mpr ⟨?_, ih h2⟩
        intro q hq
        rcases learn_mem hq with hq | hq
        · omega
        · exact h1 q hq

theorem forget_mem {a : Nat} {m : List (Nat × Half)} {p : Nat × Half} (h : p ∈ forget a m) : p ∈ m := by
  induction m with
  | nil => exact h
  | cons q rest ih =>
    obtain ⟨b, v⟩ := q
    simp only [forget] at h
    split at h
    · exact List.mem_cons_of_mem _ h
    · rcases List.mem_cons.mp h with rfl | h
      · simp
      · exact List.mem_cons_of_mem _ (ih h)

theorem forget_wf {a : Nat} {m : List (Nat × Half)} (h : knownWf m = true) : knownWf (forget a m) = true := by
  induction m with
  | nil => rfl
  | cons p rest ih =>
    obtain ⟨b, v⟩ := p
    obtain ⟨h1, h2⟩ := knownWf_cons.mp h
    simp only [forget]
    split
    · exact h2
    · exact knownWf_cons.mpr ⟨fun q hq => h1 q (forget_mem hq), ih h2⟩

/-- What an event does to the known words: they stay, or one is learnt, or one is forgotten, or none is left. -/
theorem observe_known_cases (sn : Sensor) (e : Event) :
    (observe sn e).known = sn.known ∨ (∃ a w, (observe sn e).known = learn a w sn.known) ∨
      (∃ a, (observe sn e).known = forget a sn.known) ∨ (observe sn e).known = [] := by
  cases e with
  | beginSession => simp only [observe, sensorSession]; split <;> simp [lost]
  | beginTx sa => simp only [observe, sensorBeginTx]; split <;> simp [lost]
  | writeByte b => simp only [observe, sensorWriteByte]; split <;> simp [lost]
  | endTx stop =>
    cases stop with
    | false => simp only [observe, sensorAddressed]; split <;> simp [lost]
    | true =>
      simp only [observe, sensorFrame, sensorWrite]
      repeat' split
      · exact .inr (.inl ⟨_, _, rfl⟩)
      · exact .inr (.inr (.inl ⟨_, rfl⟩))
      all_goals simp [lost]
  | requestRead sa n => simp only [observe, sensorRequest]; repeat' split <;> simp [lost]
  | readByte b => simp only [observe, sensorByte]; repeat' split <;> simp [lost]
  | delay n => simp only [observe, sensorDelay]; split <;> simp [lost]

/-- Every event keeps the canonical form of the known registers. -/
theorem observe_wf {sn : Sensor} (e : Event) (h : knownWf sn.known = true) : knownWf (observe sn e).known = true := by
  rcases observe_known_cases sn e with hk | ⟨a, w, hk⟩ | ⟨a, hk⟩ | hk <;> rw [hk]
  · exact h
  · exact learn_wf h
  · exact forget_wf h
  · rfl

/-- Once it is not known where the sensor answers, no event brings that back (U11). -/
theorem observe_stays_lost {sn : Sensor} (e : Event) (h : sn.atDevAddr = false) : (observe sn e).atDevAddr = false := by
  cases e with
  | beginSession => simp only [observe, sensorSession]; split <;> simp [lost, h]
  | beginTx sa => simp only [observe, sensorBeginTx]; split <;> simp [lost, h]
  | writeByte b => simp only [observe, sensorWriteByte]; split <;> simp [lost, h]
  | endTx stop =>
    cases stop with
    | false => simp only [observe, sensorAddressed]; split <;> simp [lost, h]
    | true => simp only [observe, sensorFrame, answers, h, Bool.and_false]; split <;> simp [lost]
  | requestRead sa n => simp only [observe, sensorRequest]; repeat' split <;> simp [lost, h]
  | readByte b => simp only [observe, sensorByte]; repeat' split <;> simp [lost, h]
  | delay n => simp only [observe, sensorDelay]; split <;> simp [lost, h]

theorem mayDeliver_of_lost {sn : Sensor} (cover : Byte → Byte → Byte → Byte) (b : Byte) (h : sn.atDevAddr = false) :
    mayDeliver cover sn b = true := by simp [mayDeliver, answers, h]

theorem observeAll_append (sn : Sensor) (l m : List Event) : observeAll sn (l ++ m) = observeAll (observeAll sn l) m := by
  simp [observeAll]

end Sys2Proof.Machine
end

