-- ==== Sys2Proof/Laws/Step.lean ====
section
/-! SUPPORT. What a command and a step can do, said once. -/

namespace Sys2Proof.Machine

/-- No meaning of this model stops: every command answers a next state, from every state. -/
theorem exec_answers (i : Instr) (s : State) : ∃ t, exec i s = .next t := by
  cases i <;> simp only [exec, execInit, execRdreg, execWrreg, execEeupd, execCrcclr, execCrcbyte, execCrcbit] <;>
    first
      | exact ⟨_, rfl⟩
      | (split <;> exact ⟨_, rfl⟩)

/-- A CMD write either executes the instruction its word decodes to or raises ILLEGAL_CMD. -/
theorem command_cases {c : Word} {s t : State} (h : command c s = .next t) :
    (∃ i, decode c = .ok i ∧ exec i s = .next t) ∨ ((∃ e, decode c = .error e) ∧ t = raise .illegalCmd s) := by
  unfold command at h
  split at h
  · next i hi => exact .inl ⟨i, hi, h⟩
  · next e he => exact .inr ⟨⟨e, he⟩, (Host.Outcome.next.inj h).symm⟩

/-- What a step of an idle block can do. -/
theorem idleStep_cases {s t : State} (h : idleStep s = .next t) :
    (s.inputs = [] ∧ t = s) ∨
    ∃ i rest, s.inputs = i :: rest ∧
      ((∃ c, i = .host (.write 0 c) ∧ command c { s with inputs := rest } = .next t) ∨
       (∃ r v, i = .host (.write r v) ∧ r ≠ 0 ∧ t = { s with inputs := rest }) ∨
       (∃ r, i = .host (.read r) ∧ t = hostRead r { s with inputs := rest }) ∨
       ((i = .ret ∨ i = .tick) ∧ t = { s with inputs := rest }) ∨
       (i = .rst ∧ t = applyReset { s with inputs := rest })) := by
  unfold idleStep at h
  split at h
  · next he => exact .inl ⟨he, (Host.Outcome.next.inj h).symm⟩
  · next i rest he =>
    refine .inr ⟨i, rest, he, ?_⟩
    cases i with
    | host a =>
      cases a with
      | write r v =>
        simp only [idleInput, hostAccess, hostWrite] at h
        split at h
        · next hr => exact .inl ⟨v, by rw [hr], h⟩
        · next hr => exact .inr (.inl ⟨r, v, rfl, hr, (Host.Outcome.next.inj h).symm⟩)
      | read r => exact .inr (.inr (.inl ⟨r, rfl, (Host.Outcome.next.inj h).symm⟩))
    | ret => exact .inr (.inr (.inr (.inl ⟨.inl rfl, (Host.Outcome.next.inj h).symm⟩)))
    | tick => exact .inr (.inr (.inr (.inl ⟨.inr rfl, (Host.Outcome.next.inj h).symm⟩)))
    | rst => exact .inr (.inr (.inr (.inr ⟨rfl, (Host.Outcome.next.inj h).symm⟩)))

/-- What a step of a block in the middle of a command can do. -/
theorem busyStep_cases {s t : State} (h : busyStep s = .next t) :
    (s.prompt = true ∧ t = finish s) ∨
    (s.prompt = false ∧ ∃ i rest, takeEvent s.inputs = some (i, rest) ∧ t = busyInput i { s with inputs := rest }) := by
  unfold busyStep at h
  split at h
  · next hp => exact .inl ⟨hp, (Host.Outcome.next.inj h).symm⟩
  · next hp =>
    split at h
    · cases h
    · next i rest he => exact .inr ⟨by simpa using hp, i, rest, he, (Host.Outcome.next.inj h).symm⟩

/-- What a step can do. -/
theorem step_cases {s t : State} (h : step s = .next t) :
    (s.seq = .idle ∧ idleStep s = .next t) ∨ (s.seq ≠ .idle ∧ busyStep s = .next t) := by
  unfold step at h
  split at h
  · next hs => exact .inl ⟨hs, h⟩
  · next hs => exact .inr ⟨hs, h⟩

/-- The event a busy block takes is no host access, and the accesses keep waiting in order (R18). -/
theorem takeEvent_hosts {l l' : List Input} {i : Input} (h : takeEvent l = some (i, l')) :
    isHost i = false ∧ l'.filter isHost = l.filter isHost := by
  induction l generalizing l' with
  | nil => simp [takeEvent] at h
  | cons x xs ih =>
    cases x with
    | host a =>
      simp only [takeEvent] at h
      cases hx : takeEvent xs with
      | none => simp [hx] at h
      | some p =>
        obtain ⟨e, r⟩ := p
        simp only [hx, Option.some.injEq, Prod.mk.injEq] at h
        obtain ⟨rfl, rfl⟩ := h
        obtain ⟨h1, h2⟩ := ih hx
        exact ⟨h1, by rw [List.filter_cons_of_pos rfl, List.filter_cons_of_pos rfl, h2]⟩
    | ret => simp only [takeEvent, Option.some.injEq, Prod.mk.injEq] at h; obtain ⟨rfl, rfl⟩ := h; simp [isHost]
    | tick => simp only [takeEvent, Option.some.injEq, Prod.mk.injEq] at h; obtain ⟨rfl, rfl⟩ := h; simp [isHost]
    | rst => simp only [takeEvent, Option.some.injEq, Prod.mk.injEq] at h; obtain ⟨rfl, rfl⟩ := h; simp [isHost]

/-- No event is pending exactly when every pending input is a host access. -/
theorem takeEvent_none {l : List Input} : takeEvent l = none ↔ l.all isHost = true := by
  induction l with
  | nil => simp [takeEvent]
  | cons x xs ih =>
    cases x with
    | host a =>
      simp only [takeEvent, List.all_cons, isHost, Bool.true_and, ← ih]
      cases takeEvent xs <;> simp
    | ret => simp [takeEvent, isHost]
    | tick => simp [takeEvent, isHost]
    | rst => simp [takeEvent, isHost]

end Sys2Proof.Machine
end

