-- ==== Sys2Proof/Tests/Slice0.lean ====
section
/-! SUPPORT. Small tests, expected values from spec/95_test_vectors.md, and a witness for the hypotheses of every statement. The
theorems are elaborated one after another (the option below), since each thread reserves a large stack. -/

namespace Sys2Proof.Tests

open Sys2Proof.Machine

set_option Elab.async false

/-! ## Helpers -/

/-- The next state of an outcome, if it is one. -/
def nextOf : Host.Outcome State Fault Refusal → Option State
  | .next s => some s
  | .fault _ => none
  | .refused _ => none

/-- A field of the next state. -/
def after {α : Type} (f : State → α) (o : Host.Outcome State Fault Refusal) : Option α := (nextOf o).map f

/-- Ready, with the transport about to deliver these bytes. -/
def ready (rx : List Byte) : State := { State.reset with ready := true, rx := rx }

/-- Ready, with a transport that answers by events, and a settle wait of three ticks. -/
def eventful (inputs : List Input) : State :=
  { State.reset with
    ready := true, prompt := false, inputs := inputs
    cfg := { pecEnforce := false, tTickNs := 4000000 }, settle := { ticks := 3, count := 0 } }

/-- The block in a phase of a command, with a transport that answers by events. -/
def inPhase (e : EePhase) (p : Phase) (n : Nat) (inputs : List Input) : State :=
  { eventful inputs with ee := e, seq := p, settle := { ticks := 3, count := BitVec.ofNat _ n }, addr := 0x24, wdata := 0xF332, crc := 0x2C }

/-- A sensor in service of which no word is known, behind a transport that takes a second session harmlessly and
frees the bus after a read, and whose words no read changes. -/
def freshSensor : Sensor :=
  { known := [], txn := none, pointer := none, reading := none, settled := true, atDevAddr := true, started := true,
    againHarmless := true, readFreesBus := true, readKeepsWords := true }

/-- The admitted addresses of RDREG, and of WRREG and EEUPD, as R52 lists them. -/
def readSet : List Byte := [0x06, 0x07, 0x08, 0x20, 0x21, 0x22, 0x23, 0x24, 0x25, 0x2E]

/-- See `readSet`. -/
def writeSet : List Byte := [0x20, 0x21, 0x22, 0x23, 0x24, 0x25, 0x2E]

/-- The step answers a next state. -/
def goesOn (s : State) : Bool := (nextOf (step s)).isSome

/-- The command answers a next state. -/
def completes (i : Instr) (s : State) : Bool := (nextOf (exec i s)).isSome

/-- PEC coverage as MLX's formula gives it. -/
def mlxCover (a l h : Byte) : Byte := crc8 [0xB5, a, l, h]

/-- STATUS, RDATA and PEC as the host reads them. -/
def views (s : State) : Word × Word × Word := (hostView 1 s, hostView 2 s, hostView 3 s)

/-! ## WellFormed: the address check refuses (R52) -/

theorem test_wellFormed_refuses_unmapped_read : ¬ (Instr.rdreg 0x09).WellFormed := by decide

theorem test_wellFormed_refuses_ram_write : ¬ (Instr.wrreg 0x07 0x1234).WellFormed := by decide

theorem test_wellFormed_refuses_ram_update : ¬ (Instr.eeupd 0x06 0x1234).WellFormed := by decide

theorem test_wellFormed_admits : (Instr.rdreg 0x07).WellFormed ∧ (Instr.eeupd 0x2E 0xBE5A).WellFormed := by decide

/-! ## Decoding: words written out from R46 and R47 (V-DEC1 to V-DEC20) -/

theorem test_decode_init : decode 0x10000000 = .ok .init := by decide

theorem test_decode_rdreg : decode 0x20070000 = .ok (.rdreg 0x07) := by decide

theorem test_decode_wrreg : decode 0x3024F332 = .ok (.wrreg 0x24 0xF332) := by decide

theorem test_decode_eeupd : decode 0x4024F332 = .ok (.eeupd 0x24 0xF332) := by decide

theorem test_decode_crcclr : decode 0x80000000 = .ok .crcclr := by decide

theorem test_decode_crcbyte : decode 0x90B40000 = .ok (.crcbyte 0xB4) := by decide

theorem test_decode_crcbit : decode 0xA0000001 = .ok (.crcbit true) ∧ decode 0xA0000000 = .ok (.crcbit false) := by
  decide

theorem test_decode_rejects :
    [0x00000000, 0xFFFFFFFF, 0x11000000, 0x10000001, 0x10010000, 0x20070001, 0x50000000, 0xB0000000, 0xA0000002,
     0xA0010000, 0x90B40001, 0x80000001].all (fun c => (decode c).toOption.isNone) = true := by decide

theorem test_decodeTableWord : decodeTableWord 32 0x30240000 = some (.wrreg 0x24 0x0000) := by decide

theorem test_encode : encode (.eeupd 0x25 0x1234) = 0x40251234 ∧ encode (.crcbyte 0xD6) = 0x90D60000 := by decide

theorem test_patternRows_disjoint : patternRows.Pairwise (fun r q => (r.value &&& r.mask &&& q.mask) ≠ (q.value &&& r.mask &&& q.mask)) := by
  decide

/-! ## The CRC unit (V-BIT, V-BYTE, V-CRC) -/

theorem test_crcBit : crcBit 0x7F true = 0xF9 ∧ crcBit 0x40 false = 0x80 ∧ crcBit 0x81 true = 0x02 := by decide

theorem test_crcByte : crcByte 0xB0 0x07 = 0x0C ∧ crcByte 0x00 0x80 = 0x89 := by decide

theorem test_crc8_check_value : crc8 [0x31, 0x32, 0x33, 0x34, 0x35, 0x36, 0x37, 0x38, 0x39] = 0xF4 := by decide +kernel

theorem test_crc8_example : crc8 [0xB4, 0x07, 0x00, 0x00] = 0xD6 ∧ crc8 [0xB5, 0x06, 0xF7, 0x3A] = 0x72 := by decide +kernel

theorem test_crcclr : after State.crc (exec .crcclr { State.reset with crc := 0xD6 }) = some 0x00 := by decide

theorem test_crcbit : after State.crc (exec (.crcbit true) { State.reset with crc := 0x0E }) = some 0x1B := by decide

theorem test_crcbyte : after State.crc (exec (.crcbyte 0x07) { State.reset with crc := 0x72 }) = some 0x4C := by decide

/-! ## The framer (V-INIT, V-RD, V-WR, V-EE) -/

theorem test_init_again : after (fun t => (t.ready, t.trace)) (exec .init { ready [] with trace := [.beginSession] }) =
    some (true, [.beginSession, .beginSession]) := by decide

/-- P1: the host's view after the read. -/
theorem test_rdreg_views : after views (exec (.rdreg 0x07) (ready [0x99, 0x64, 0xA7])) =
    some (0x00000003, 0x00006499, 0x0000A7A7) := by decide +kernel

/-- P1b with PEC_ENFORCE. -/
theorem test_rdreg_enforced :
    after views (exec (.rdreg 0x07)
      { ready [0x99, 0x64, 0x00] with cfg := { pecEnforce := true, tTickNs := 1000000 } }) =
    some (0x0000001D, 0x00006499, 0x000000A7) := by decide +kernel

/-- V-WR3: the low byte goes first. -/
theorem test_wrreg_order : after State.trace (exec (.wrreg 0x22 0xA55A) (ready [])) =
    some [.beginTx 0x5A, .writeByte 0x22, .writeByte 0x5A, .writeByte 0xA5, .writeByte 0xA9, .endTx true] := by decide +kernel

theorem test_wrreg_refused : after State.err (exec (.wrreg 0x26 0x0000) (ready [])) = some 2 := by decide

/-- V-EE3. -/
theorem test_eeupd_trace : after State.trace (exec (.eeupd 0x25 0x1234) (ready [])) =
    some [.beginTx 0x5A, .writeByte 0x25, .writeByte 0x00, .writeByte 0x00, .writeByte 0x43, .endTx true, .delay 10,
      .beginTx 0x5A, .writeByte 0x25, .writeByte 0x34, .writeByte 0x12, .writeByte 0x90, .endTx true, .delay 10] := by
  decide +kernel

theorem test_eeupd_refused : after (fun t => (t.err, t.trace, t.ee)) (exec (.eeupd 0x06 0x1234) (ready [])) =
    some (2, [], .idle) := by decide

/-! ## Steps -/

theorem test_step_runs_a_placed_word :
    after State.ready (step (State.reset.withFetchWord 32 0x10000000)) = some true := by decide

/-- V-PRI1: legality is checked before the address. -/
theorem test_step_illegal_first : after State.err (step (State.reset.withFetchWord 32 0x21090001)) = some 1 := by decide

/-- V-ERR1: the code is not sticky. -/
theorem test_err_not_sticky : after State.err (exec .crcclr { State.reset with err := 2 }) = some 0 := by decide

/-- V-RST2: reset in the settle wait after the erase. -/
theorem test_rst_mid_command :
    after (fun t => (t.seq, t.ee, t.settle.value, t.crc)) (step (inPhase .settleErase .settle 3 [.rst])) =
    some (.idle, .idle, 0, 0x00) := by decide

theorem test_stuck_primitive : step (inPhase .idle .rdReq 0 [.host (.read 1)]) = .fault (.primitiveNeverReturns .rdReq) := by
  rfl

theorem test_stuck_tick : step (inPhase .erasing .settle 2 []) = .fault .tickNeverArrives := by rfl

theorem test_host_waits_while_busy :
    after (fun t => (t.seq, t.inputs)) (step (inPhase .idle .wrBegin 0 [.host (.read 1), .ret])) =
    some (.wrAddr, [.host (.read 1)]) := by decide

theorem test_free_byte_is_free : rxAt State.reset 2 = Config.freeByte 2 := by rfl

/-! ## Text, conversions, sensor -/

theorem test_text_name : assembleText "wrreg emissivity, 0xF332 ; set".toList = .ok [0x3024F332] := by decide

theorem test_text_error : assembleText "crcbyte 0x100".toList = .error .doesNotFit := by decide

theorem test_emissivity : emissivityWord 95 100 = some 0xF332 := by decide

theorem test_sensor_rejects_bad_pec :
    wordAt (observeAll freshSensor
      [.beginTx 0x5A, .writeByte 0x24, .writeByte 0x00, .writeByte 0x00, .writeByte 0x29, .endTx true]).known 0x24 =
    none := by decide +kernel

/-! ## Witnesses: the hypotheses of each statement are met together, and each clause at a boundary -/

theorem witness_EncodeOfDecodeIsTheWord : decode 0xA0000001 = .ok (.crcbit true) := by decide

theorem witness_DecoderSelectsByThePatterns :
    (0xA0000001 : Word) &&& 0xFFFFFFFE = 0xA0000000 ∧ (0x20FF0000 : Word) &&& 0xFF00FFFF = 0x20000000 ∧
    (0x30FFFFFF : Word) &&& 0xFF000000 = 0x30000000 := by decide

theorem witness_IllegalWordWritesErrOnly :
    State.reset.Idle ∧ (∀ r ∈ patternRows, r.selects 0x21090001 = false) ∧ (∀ r ∈ patternRows, r.selects 0 = false) := by
  decide

theorem witness_UnadmittedAddressWritesErrOnly :
    State.reset.Idle ∧ 0x05 ∉ readSet ∧ 0x2F ∉ readSet ∧ 0x08 ∉ writeSet ∧ 0x26 ∉ writeSet := by decide

theorem witness_FirstFailingCheckDecidesTheCode :
    State.reset.Idle ∧ State.reset.prompt = true ∧ (decode 0x21090001).toOption = none ∧
    (Instr.rdreg 0x09).wellFormed = false ∧ (Instr.rdreg 0x07).wellFormed = true := by decide

theorem witness_OldErrHasNoEffect : State.reset.Idle ∧ State.reset.prompt = true := by decide

theorem witness_ByteStepHasTheEquivalentForms : (0xA5 : Byte) ^^^ 0x5A = 0xFF ^^^ 0x00 := by decide

theorem witness_Crc8IsLinear : ([0xB4, 0x07] : List Byte).length = ([0x24, 0x00] : List Byte).length := by decide

theorem witness_Crc8LeadingZerosAndResidue : crc8 ([0xB4, 0x07, 0x00, 0x00] ++ [0xD6]) = 0x00 := by decide +kernel

theorem witness_Crc8DetectsEverySingleBitFlip : 3 < ([0xB4, 0x07, 0x00, 0x00] : List Byte).length ∧ 7 < 8 := by decide

theorem witness_Crc8DetectsOddErrorPatterns :
    ([0xB4, 0x07] : List Byte).length = ([0x80, 0x03] : List Byte).length ∧
    (([0x80, 0x03] : List Byte).map (fun b => ((List.range 8).filter b.getLsbD).length)).sum % 2 = 1 := by decide

theorem witness_CrcclrClearsTheAccumulator : State.reset.Idle ∧ fieldOp 0x80000001 = 0x8 ∧ (0x80000001 : Word) ≠ 0x80000000 := by
  decide

theorem witness_CrcbitStepsTheAccumulator :
    State.reset.Idle ∧ fieldOp 0xA0000002 = 0xA ∧ (0xA0000002 : Word) ≠ 0xA0000000 ∧ (0xA0000002 : Word) ≠ 0xA0000001 := by decide

theorem witness_CrcbyteStepsTheAccumulator :
    State.reset.Idle ∧ (fieldOp 0x90B40001 = 0x9 ∧ fieldW 0x90B40001 ≠ 0) ∧ (fieldOp 0x98B40000 = 0x9 ∧ fieldZ 0x98B40000 ≠ 0) := by
  decide

theorem witness_InitStartsTheSession :
    State.reset.Idle ∧ State.reset.prompt = true ∧ fieldOp 0x10000001 = 0x1 ∧ (0x10000001 : Word) ≠ 0x10000000 := by decide

theorem witness_RdregDeliversTheWord :
    (ready [0x99, 0x64, 0xA7]).Idle ∧ (ready [0x99, 0x64, 0xA7]).prompt = true ∧ 0x06 ∈ readSet ∧ 0x2E ∈ readSet ∧
    0x09 ∉ readSet ∧ (fieldOp 0x20070001 = 0x2 ∧ fieldW 0x20070001 ≠ 0) ∧ (fieldOp 0x21070000 = 0x2 ∧ fieldZ 0x21070000 ≠ 0) := by
  decide

theorem witness_WrregSendsOneWriteFrame :
    State.reset.Idle ∧ State.reset.prompt = true ∧ 0x20 ∈ writeSet ∧ 0x2E ∈ writeSet ∧ 0x08 ∉ writeSet ∧
    fieldOp 0x38200000 = 0x3 ∧ fieldZ 0x38200000 ≠ 0 := by decide

theorem witness_EeupdErasesSettlesWritesSettles :
    State.reset.Idle ∧ State.reset.prompt = true ∧ 0x20 ∈ writeSet ∧ 0x2E ∈ writeSet ∧ 0x06 ∉ writeSet ∧
    fieldOp 0x41240000 = 0x4 ∧ fieldZ 0x41240000 ≠ 0 := by decide

theorem witness_EeupdEndsWithTheSettlingDelay :
    State.reset.Idle ∧ State.reset.prompt = true ∧ State.reset.ParamsValid ∧ 0x24 ∈ writeSet := by decide

theorem witness_CommandsWriteWhatTheMatrixMarks :
    (ready [0x99, 0x64, 0xA7]).Idle ∧ (ready [0x99, 0x64, 0xA7]).settle.value = 0 ∧ (ready [0x99, 0x64, 0xA7]).prompt = true ∧
    completes (.rdreg 0x07) (ready [0x99, 0x64, 0xA7]) = true ∧ completes .crcclr (ready []) = true := by decide

theorem witness_FramerCommandsForgetEarlierOnes :
    (ready [1, 2, 3]).Idle ∧ { ready [1, 2, 3] with crc := 0x55, rdata := 0x1111 }.Idle ∧ (ready [1, 2, 3]).prompt = true ∧
    completes (.rdreg 0x08) (ready [1, 2, 3]) = true ∧ readable 0x08 = true ∧
    completes (.eeupd 0x20 0x0001) (ready [1, 2, 3]) = true ∧ writable 0x20 = true := by decide

theorem witness_UseBeforeInitRunsAndIsMarked :
    State.reset.Idle ∧ State.reset.prompt = true ∧ (Instr.wrreg 0x20 0xFFFF).WellFormed ∧ (Instr.rdreg 0x06).WellFormed := by decide

theorem witness_SequencerFollowsThePhaseTable :
    (eventful []).Idle ∧ (eventful []).prompt = false ∧ readable 0x2E = true ∧ writable 0x2E = true ∧
    [Phase.inSession, .rdBegin, .rdAddr, .rdRestart, .rdReq, .rdLo, .rdHi, .rdPec, .wrBegin, .wrAddr, .wrLo, .wrHi, .wrPec,
     .wrStop].all (fun p => goesOn (inPhase .idle p 0 [.ret])) = true ∧
    after (fun t => t.settle.value) (step (inPhase .erasing .wrStop 0 [.ret])) = some 3 ∧
    after (fun t => t.settle.value) (step (inPhase .writing .wrStop 0 [.ret])) = some 3 := by decide

theorem witness_TicksCountTheSettleWait :
    after (fun t => t.settle.value) (step (inPhase .settleErase .settle 2 [.tick])) = some 1 ∧
    after State.seq (step (inPhase .settleErase .settle 1 [.tick])) = some .wrBegin ∧
    after State.seq (step (inPhase .settleWrite .settle 1 [.tick])) = some .idle ∧
    after State.seq (step (inPhase .idle .rdLo 0 [.tick])) = some .rdLo := by decide

theorem witness_EepromSequencerKeepsToItsCycle :
    SequencerInv (inPhase .settleWrite .settle 1 [.tick]) ∧
    after State.ee (step (inPhase .settleWrite .settle 1 [.tick])) = some .idle := by decide

theorem witness_OneStepCommandIsAnEventByEventRun : (eventful []).Idle ∧ (eventful []).prompt = false := by decide

theorem witness_StepExecutesTheWrittenCommand :
    (eventful [.host (.write 0 0x10000000), .ret]).Idle ∧
    (eventful [.host (.write 0 0x10000000), .ret]).inputs = .host (.write 0 0x10000000) :: [.ret] ∧
    decode 0x10000000 = .ok .init ∧
    (eventful [.host (.write 0 0x21090001)]).Idle ∧ decode 0x21090001 = .error .nonzeroZ := by decide

theorem witness_HostRegistersAreReadOnlyViews :
    after State.hostReads (step { ready [] with inputs := [.host (.read 0)], err := 3 }) = some [0] ∧
    after State.hostReads (step { ready [] with inputs := [.host (.read 1)], err := 3 }) = some [0x19] ∧
    after State.hostReads (step { ready [] with inputs := [.host (.read 2)], rdata := 0xFFFF }) = some [0xFFFF] ∧
    after State.hostReads (step { ready [] with inputs := [.host (.read 3)], pecrx := 0xFF }) = some [0xFF00] ∧
    after State.inputs (step { ready [] with inputs := [.host (.write 1 0xFFFFFFFF)] }) = some [] ∧
    after State.crc (step { ready [] with inputs := [.host (.write 3 0x90010000)] }) = some 0 := by decide

theorem witness_BusyBlockAcceptsNoHostAccess :
    (inPhase .idle .wrLo 0 [.host (.read 2), .ret]).seq ≠ .idle ∧ goesOn (inPhase .idle .wrLo 0 [.host (.read 2), .ret]) = true := by
  decide

theorem witness_RstPutsEveryElementAtReset :
    (ready []).seq = .idle ∧ goesOn { ready [] with inputs := [.rst] } = true ∧
    (inPhase .erasing .wrLo 0 [.host (.read 1), .rst, .ret]).prompt = false ∧
    takeEvent [.host (.read 1), .rst, .ret] = some (.rst, [.host (.read 1), .ret]) ∧
    goesOn (inPhase .erasing .wrLo 0 [.host (.read 1), .rst, .ret]) = true := by decide

theorem witness_ReadyChangesOnlyByInitAndRst :
    State.reset.ready = false ∧ after State.ready (step { State.reset with inputs := [.host (.write 0 0x10000000)] }) = some true ∧
    after State.ready (step { inPhase .idle .inSession 0 [.ret] with ready := false }) = some true ∧
    (ready []).ready = true ∧ after State.ready (step { ready [] with inputs := [.rst] }) = some false ∧
    after State.ready (step (inPhase .idle .rdLo 0 [.rst])) = some false := by decide

theorem witness_TraceOnlyGrows :
    after State.trace (step { inPhase .idle .wrPec 0 [.ret] with trace := [.writeByte 0x2C] }) =
      some [.writeByte 0x2C, .endTx true] ∧
    after State.trace (step { inPhase .idle .wrPec 0 [.rst] with trace := [.writeByte 0x2C] }) = some [] := by decide

theorem witness_EveryStepKeepsTheSequencerInvariant :
    SequencerInv { inPhase .writing .wrAddr 0 [.ret] with addr := 0x24, wdata := 0xF332, crc := 0x2C } ∧
    goesOn (inPhase .writing .wrAddr 0 [.ret]) = true := by decide +kernel

theorem witness_EveryStepKeepsTheRestartRule :
    RestartInv { inPhase .idle .rdRestart 0 [.ret] with trace := [.endTx false] } ∧
    after State.trace (step { inPhase .idle .rdRestart 0 [.ret] with trace := [.endTx false] }) =
      some [.endTx false, .requestRead 0x5A 3] := by decide

theorem witness_SensorHoldsTheUpdatedWord :
    State.reset.Idle ∧ State.reset.prompt = true ∧ writable 0x24 = true ∧ (0x24 : Byte) ≠ 0x2E ∧
    freshSensor.InService ∧ completes (.eeupd 0x24 0xF332) State.reset = true := by decide

/-- P2: from an empty trace, the bytes 0x32, 0xF3, 0x3A are those of a sensor that took both frames and covers MLX's four bytes,
and the word read is the word written. -/
theorem witness_ReadBackGivesTheUpdatedWord :
    ((nextOf (exec (.eeupd 0x24 0xF332) (ready [0x32, 0xF3, 0x3A]))).bind (fun t =>
      after (fun u => (allowsTrace mlxCover freshSensor u.trace, u.rdata)) (exec (.rdreg 0x24) t))) =
    some (true, 0xF332) := by decide +kernel

/-- U11 inside the settling time, U1, U8, U7 and N7: the five ways to an unknown reaction. -/
theorem witness_NothingIsAssumedAfterAnUnknownReaction :
    (observeAll { freshSensor with settled := false } (writeEvents 0x2E 0xBE5B ++ [.delay 10])).atDevAddr = false ∧
    { freshSensor with started := false }.started = false ∧
    (freshSensor.started = true ∧ { freshSensor with againHarmless := false }.againHarmless = false) ∧
    (observeAll { freshSensor with readKeepsWords := false } (readEvents 0x24 0x32 0xF3 0x3A)).atDevAddr = false ∧
    (observeAll freshSensor (readEvents 0x24 0x32 0xF3 0x3A)).InService ∧
    (observeAll { freshSensor with readFreesBus := false } (readEvents 0x24 0x32 0xF3 0x3A ++ [.beginTx 0x5A])).atDevAddr = false := by
  decide +kernel

/-- Reset while `EndTx(true)` and while `BeginSession` is outstanding, a reset in IDLE, and a step without one. -/
theorem witness_ResetInMidCommandLeavesNothingKnown :
    takeEvent [.rst] = some (.rst, []) ∧ goesOn (inPhase .writing .wrStop 0 [.rst]) = true ∧
    goesOn (inPhase .idle .inSession 0 [.rst]) = true ∧
    (ready []).seq = .idle ∧ goesOn { ready [] with inputs := [.rst] } = true ∧
    takesRst (inPhase .writing .wrStop 0 [.ret]) = false ∧ goesOn (inPhase .writing .wrStop 0 [.ret]) = true := by decide

theorem witness_EmissivityRoundTrip : (0 < 100 ∧ 95 ≤ 100) ∧ (0 < 1 ∧ 0 ≤ 1) ∧ (0 < 7 ∧ 7 ≤ 7) := by decide

end Sys2Proof.Tests
end

section
/-! SUPPORT. An accepted EEUPD of the prompt environment, as one next state, and the end of its trace. -/

namespace Sys2Proof.Machine

/-- `writable` as the list of R52 that the statements write out. -/
theorem writable_iff_mem (a : Byte) : writable a = true ↔ a ∈ [0x20, 0x21, 0x22, 0x23, 0x24, 0x25, 0x2E] :=
  List.contains_iff_mem

/-- R72: an EEUPD to a writable address runs, in a prompt environment, through both frames and both settle waits. -/
theorem exec_eeupd_writable {s : State} {a : Byte} (w : Half) (hp : s.prompt = true) (ha : writable a = true) :
    exec (.eeupd a w) s = .next (complete { noteUse s with
      seq := .idle
      ee := .idle
      settle := s.settle.clear
      addr := a
      wdata := w
      crc := crc8 [0xB4, a, lo w, hi w]
      trace := s.trace ++ updateEvents a w s.settle.ticks }) := by
  have hrun : proceed (beginWrite { noteUse s with addr := a, wdata := w, ee := .erasing }) =
      finish (beginWrite { noteUse s with addr := a, wdata := w, ee := .erasing }) := if_pos hp
  have hexec : exec (.eeupd a w) s =
      .next (proceed (beginWrite { noteUse s with addr := a, wdata := w, ee := .erasing })) := if_pos ha
  rw [hexec, hrun, finish_update _ rfl]
  rfl

/-- R72, R73: the events of an update end with the stop of the value frame and the settle wait after it. -/
theorem updateEvents_eq_append_stop_delay (a : Byte) (w : Half) (n : Nat) :
    ∃ before, updateEvents a w n = before ++ [.endTx true, .delay n] :=
  ⟨writeEvents a 0x0000 ++ [.delay n] ++ (writeEvents a w).dropLast, by simp [updateEvents, writeEvents]⟩

/-- Settles O23: the last delay is SETTLE_TICKS, which R5's constraint makes at least T_SETTLE, and that exceeds T_SETTLE_MIN. -/
theorem eeupdEndsWithTheSettlingDelay : Obligations.EeupdEndsWithTheSettlingDelay := by
  unfold Obligations.EeupdEndsWithTheSettlingDelay
  intro s a w _ hprompt hparams ha
  obtain ⟨_, hsettle⟩ := hparams
  have hten : 10000000 ≤ s.settle.ticks * s.cfg.tTickNs := hsettle
  obtain ⟨before, hends⟩ := updateEvents_eq_append_stop_delay a w s.settle.ticks
  refine ⟨_, s.trace ++ before, s.settle.ticks, exec_eeupd_writable w hprompt ((writable_iff_mem a).2 ha), ?_, hten, ?_⟩
  · simp [hends]
  · exact (by decide : 5000000 ≤ 10000000).trans hten

end Sys2Proof.Machine
end

section
/-! SUPPORT. The sequencer, said once: what the return of a primitive can do, what a whole phase leaves unchanged, and that neither
looks at the model's fields for the outside world. -/

namespace Sys2Proof.Machine

/-! ## The return of a primitive, row by row (R15, R70) -/

/-- The next row of R15's table, for the rows whose return has no effect of its own. -/
def plainNext : Phase → Option Phase
  | .rdBegin => some .rdAddr
  | .rdAddr => some .rdRestart
  | .rdRestart => some .rdReq
  | .rdReq => some .rdLo
  | .wrBegin => some .wrAddr
  | .wrAddr => some .wrLo
  | .wrLo => some .wrHi
  | .wrHi => some .wrPec
  | .wrPec => some .wrStop
  | .idle | .inSession | .rdLo | .rdHi | .rdPec | .wrStop | .settle => none

theorem primitiveReturn_plain {s : State} {p : Phase} (h : plainNext s.seq = some p) : primitiveReturn s = enter p s := by
  cases hs : s.seq <;> simp_all [plainNext, primitiveReturn]

theorem primitiveReturn_idle {s : State} (h : s.seq = .idle) : primitiveReturn s = s := by simp only [primitiveReturn, h]

theorem primitiveReturn_settle {s : State} (h : s.seq = .settle) : primitiveReturn s = s := by simp only [primitiveReturn, h]

theorem primitiveReturn_inSession {s : State} (h : s.seq = .inSession) :
    primitiveReturn s = complete { s with seq := .idle, ready := true } := by simp only [primitiveReturn, h]

theorem primitiveReturn_rdLo {s : State} (h : s.seq = .rdLo) : primitiveReturn s = enter .rdHi (takeLo s) := by
  simp only [primitiveReturn, h]

theorem primitiveReturn_rdHi {s : State} (h : s.seq = .rdHi) : primitiveReturn s = enter .rdPec (takeHi s) := by
  simp only [primitiveReturn, h]

theorem primitiveReturn_rdPec {s : State} (h : s.seq = .rdPec) :
    primitiveReturn s = pecCheck { takePec s with seq := .idle } := by simp only [primitiveReturn, h]

theorem primitiveReturn_wrStop {s : State} (h : s.seq = .wrStop) :
    primitiveReturn s = if s.ee = .idle then complete { s with seq := .idle } else beginSettle s := by
  simp only [primitiveReturn, h]

/-- Every phase is a plain row, one of the five rows with an effect of their own, or one in which no primitive is outstanding. -/
theorem plainNext_cases (p : Phase) :
    (∃ q, plainNext p = some q) ∨ p = .inSession ∨ p = .rdLo ∨ p = .rdHi ∨ p = .rdPec ∨ p = .wrStop ∨
      p = .idle ∨ p = .settle := by
  cases p <;> simp [plainNext]

/-- A plain row stays in its group: the next phase is one of the same frame. -/
theorem plainNext_group {p q : Phase} (h : plainNext p = some q) :
    (inRead p = true ∧ inRead q = true) ∨ (inWrite p = true ∧ inWrite q = true) := by
  revert h; revert q; cases p <;> simp [plainNext, inRead, inWrite]

theorem takeLo_eq (s : State) : takeLo s = rxSkip 1 { s with
    rdata := setLo s.rdata (rxAt s 0), trace := s.trace ++ [.readByte (rxAt s 0)] } := by
  rw [takeLo, rxDrop_eq, rxByte_eq]

theorem takeHi_eq (s : State) : takeHi s = rxSkip 1 { s with
    rdata := setHi s.rdata (rxAt s 0), trace := s.trace ++ [.readByte (rxAt s 0)] } := by
  rw [takeHi, rxDrop_eq, rxByte_eq]

theorem takePec_eq (s : State) : takePec s = rxSkip 1 { s with
    pecrx := rxAt s 0, trace := s.trace ++ [.readByte (rxAt s 0)] } := by
  rw [takePec, rxDrop_eq, rxByte_eq]

/-- R69 as one record: from an idle pair `(ee, seq)` both outcomes of the check write the same fields. -/
theorem pecCheck_eq {s : State} (hs : s.seq = .idle) (he : s.ee = .idle) :
    pecCheck s = { s with
      crc := crc8 [0xB5, s.addr, lo s.rdata, hi s.rdata]
      pecerr := decide (s.pecrx ≠ crc8 [0xB5, s.addr, lo s.rdata, hi s.rdata])
      rvalid := decide (¬ (s.cfg.pecEnforce = true ∧ s.pecrx ≠ crc8 [0xB5, s.addr, lo s.rdata, hi s.rdata]))
      err := if s.cfg.pecEnforce = true ∧ s.pecrx ≠ crc8 [0xB5, s.addr, lo s.rdata, hi s.rdata] then 3 else 0
      record := { s.record with
        failed := s.record.failed ||
          decide (s.cfg.pecEnforce = true ∧ s.pecrx ≠ crc8 [0xB5, s.addr, lo s.rdata, hi s.rdata]) } } := by
  have hpec : expectedPec s.addr (lo s.rdata) (hi s.rdata) = crc8 [0xB5, s.addr, lo s.rdata, hi s.rdata] := by
    rw [expectedPec, readPayload, devR_eq]
  simp only [pecCheck, hpec]
  generalize crc8 [0xB5, s.addr, lo s.rdata, hi s.rdata] = expected
  by_cases hbad : s.pecrx = expected <;> cases henf : s.cfg.pecEnforce
  all_goals simp [hbad, raise, complete, errCode, hs, he]

/-! ## The outside world (log entries 3 and 4): the sequencer neither reads nor writes it -/

/-- The state with the model's fields for the outside world replaced: how the transport answers, the pending inputs, the
host's record. -/
def inWorld (p : Bool) (l : List Input) (reads : List Word) (s : State) : State :=
  { s with prompt := p, inputs := l, hostReads := reads }

section
variable (p : Bool) (l : List Input) (reads : List Word) (s : State)

theorem pecCheck_inWorld : pecCheck (inWorld p l reads s) = inWorld p l reads (pecCheck s) := by
  simp only [pecCheck, apply_ite (inWorld p l reads)]
  rfl

theorem settleDone_inWorld : settleDone (inWorld p l reads s) = inWorld p l reads (settleDone s) := by
  simp only [settleDone, apply_ite (inWorld p l reads)]
  rfl

theorem primitiveReturn_inWorld : primitiveReturn (inWorld p l reads s) = inWorld p l reads (primitiveReturn s) := by
  have hseq : (inWorld p l reads s).seq = s.seq := rfl
  obtain ⟨q, hq⟩ | h | h | h | h | h | h | h := plainNext_cases s.seq
  · rw [primitiveReturn_plain hq, primitiveReturn_plain (hseq ▸ hq)]
    rfl
  · rw [primitiveReturn_inSession h, primitiveReturn_inSession (s := inWorld p l reads s) h]
    rfl
  · rw [primitiveReturn_rdLo h, primitiveReturn_rdLo (s := inWorld p l reads s) h, takeLo_eq, takeLo_eq]
    rfl
  · rw [primitiveReturn_rdHi h, primitiveReturn_rdHi (s := inWorld p l reads s) h, takeHi_eq, takeHi_eq]
    rfl
  · rw [primitiveReturn_rdPec h, primitiveReturn_rdPec (s := inWorld p l reads s) h, takePec_eq, takePec_eq, ← pecCheck_inWorld]
    rfl
  · rw [primitiveReturn_wrStop h, primitiveReturn_wrStop (s := inWorld p l reads s) h, apply_ite (inWorld p l reads)]
    rfl
  · rw [primitiveReturn_idle h, primitiveReturn_idle (s := inWorld p l reads s) h]
  · rw [primitiveReturn_settle h, primitiveReturn_settle (s := inWorld p l reads s) h]

theorem advance_inWorld : advance (inWorld p l reads s) = inWorld p l reads (advance s) := by
  by_cases h : s.seq = .settle
  · rw [advance_settle h, advance_settle (s := inWorld p l reads s) h, ← settleDone_inWorld]
    rfl
  · rw [advance_busy h, advance_busy (s := inWorld p l reads s) h, primitiveReturn_inWorld]

theorem advanceN_inWorld (n : Nat) : advanceN n (inWorld p l reads s) = inWorld p l reads (advanceN n s) := by
  induction n generalizing s with
  | zero => rfl
  | succ n ih => rw [advanceN_succ, advanceN_succ, advance_inWorld, ih]

theorem finish_inWorld : finish (inWorld p l reads s) = inWorld p l reads (finish s) := advanceN_inWorld p l reads s _

end

theorem finish_inputs (s : State) : (finish s).inputs = s.inputs :=
  (congrArg State.inputs (finish_inWorld s.prompt s.inputs s.hostReads s) :)

theorem finish_hostReads (s : State) : (finish s).hostReads = s.hostReads :=
  (congrArg State.hostReads (finish_inWorld s.prompt s.inputs s.hostReads s) :)

/-- What a tick can do: nothing outside SETTLE, end the wait, or count down (R75). -/
theorem tick_cases (s : State) :
    (s.seq ≠ .settle ∧ tick s = s) ∨
    (s.seq = .settle ∧ s.settle.value ≤ 1 ∧ tick s = settleDone { s with settle := s.settle.clear }) ∨
    (s.seq = .settle ∧ 1 < s.settle.value ∧ tick s = { s with settle := s.settle.countDown }) := by
  unfold tick
  split
  · next hs =>
    split
    · next hv => exact .inr (.inl ⟨hs, hv, rfl⟩)
    · next hv => exact .inr (.inr ⟨hs, by omega, rfl⟩)
  · next hs => exact .inl ⟨hs, rfl⟩

theorem tick_inWorld (p : Bool) (l : List Input) (reads : List Word) (s : State) :
    tick (inWorld p l reads s) = inWorld p l reads (tick s) := by
  simp only [tick, apply_ite (inWorld p l reads), ← settleDone_inWorld]
  rfl

theorem busyInput_inWorld (p : Bool) (l : List Input) (reads : List Word) (i : Input) (s : State) :
    busyInput i (inWorld p l reads s) = inWorld p l reads (busyInput i s) := by
  cases i with
  | host a => rfl
  | ret => exact primitiveReturn_inWorld p l reads s
  | tick => exact tick_inWorld p l reads s
  | rst => rfl

theorem busyInput_prompt (i : Input) (s : State) : (busyInput i s).prompt = s.prompt :=
  (congrArg State.prompt (busyInput_inWorld s.prompt s.inputs s.hostReads i s) :)

theorem busyInput_inputs (i : Input) (s : State) : (busyInput i s).inputs = s.inputs :=
  (congrArg State.inputs (busyInput_inWorld s.prompt s.inputs s.hostReads i s) :)

theorem busyInput_hostReads (i : Input) (s : State) : (busyInput i s).hostReads = s.hostReads :=
  (congrArg State.hostReads (busyInput_inWorld s.prompt s.inputs s.hostReads i s) :)

/-! ## `ready`: only the return of `BeginSession` touches it, and no phase leads back there (R11) -/

theorem pecCheck_ready (s : State) : (pecCheck s).ready = s.ready := by
  simp only [pecCheck]
  split <;> rfl

theorem settleDone_ready (s : State) : (settleDone s).ready = s.ready := by
  unfold settleDone
  split <;> rfl

theorem settleDone_seq_ne (s : State) : (settleDone s).seq ≠ .inSession := by
  unfold settleDone
  split <;> exact Phase.noConfusion

theorem primitiveReturn_ready (s : State) : (primitiveReturn s).ready = (s.ready || decide (s.seq = .inSession)) := by
  obtain ⟨q, hq⟩ | h | h | h | h | h | h | h := plainNext_cases s.seq
  · have hne : s.seq ≠ .inSession := by rintro h; simp [h, plainNext] at hq
    rw [primitiveReturn_plain hq]
    simp [hne]
  · rw [primitiveReturn_inSession h]
    simp [h]
  · rw [primitiveReturn_rdLo h]
    simp [takeLo, h]
  · rw [primitiveReturn_rdHi h]
    simp [takeHi, h]
  · rw [primitiveReturn_rdPec h, pecCheck_ready]
    simp [takePec, h]
  · rw [primitiveReturn_wrStop h]
    split <;> simp [h]
  · rw [primitiveReturn_idle h]
    simp [h]
  · rw [primitiveReturn_settle h]
    simp [h]

theorem primitiveReturn_seq_ne (s : State) : (primitiveReturn s).seq ≠ .inSession := by
  obtain ⟨q, hq⟩ | h | h | h | h | h | h | h := plainNext_cases s.seq
  · rw [primitiveReturn_plain hq]
    obtain ⟨_, hg⟩ | ⟨_, hg⟩ := plainNext_group hq <;> rintro (rfl : q = _) <;> exact Bool.noConfusion hg
  · rw [primitiveReturn_inSession h]
    exact Phase.noConfusion
  · rw [primitiveReturn_rdLo h]
    exact Phase.noConfusion
  · rw [primitiveReturn_rdHi h]
    exact Phase.noConfusion
  · rw [primitiveReturn_rdPec h, pecCheck_seq _ rfl]
    exact Phase.noConfusion
  · rw [primitiveReturn_wrStop h]
    split <;> exact Phase.noConfusion
  · rw [primitiveReturn_idle h]
    simp [h]
  · rw [primitiveReturn_settle h]
    simp [h]

theorem advance_ready (s : State) : (advance s).ready = (s.ready || decide (s.seq = .inSession)) := by
  by_cases h : s.seq = .settle
  · rw [advance_settle h, settleDone_ready]
    simp [h]
  · rw [advance_busy h, primitiveReturn_ready]

theorem advance_seq_ne (s : State) : (advance s).seq ≠ .inSession := by
  by_cases h : s.seq = .settle
  · rw [advance_settle h]
    exact settleDone_seq_ne _
  · rw [advance_busy h]
    exact primitiveReturn_seq_ne s

theorem advanceN_ready_of_ne (n : Nat) {s : State} (h : s.seq ≠ .inSession) : (advanceN n s).ready = s.ready := by
  induction n generalizing s with
  | zero => rfl
  | succ n ih =>
    rw [advanceN_succ, ih (advance_seq_ne s), advance_ready]
    simp [h]

/-- R11: over a whole command `ready` is set by `INIT` only. -/
theorem finish_ready (s : State) : (finish s).ready = (s.ready || decide (s.seq = .inSession)) := by
  rw [finish, longestCommand, advanceN_succ, advanceN_ready_of_ne _ (advance_seq_ne s), advance_ready]

end Sys2Proof.Machine
end

section
/-! SUPPORT. A command taken by an idle block, said once: the state its first primitive leaves, from which the command goes on
or which ends it, and, with a prompt environment, the state it ends in. -/

namespace Sys2Proof.Machine

/-- The state right after a command has been taken: refused, done at once, or with its first primitive called (R58 to R60, R66 to R68,
R72). -/
def start : Instr → State → State
  | .init, s => enter .inSession s
  | .rdreg a, s =>
    if readable a = true then enter .rdBegin { noteUse s with addr := a, rvalid := false, pecerr := false }
    else raise .invalidOp s
  | .wrreg a w, s =>
    if writable a = true then beginWrite { noteUse s with addr := a, wdata := w } else raise .invalidOp s
  | .eeupd a w, s =>
    if writable a = true then beginWrite { noteUse s with addr := a, wdata := w, ee := .erasing }
    else raise .invalidOp s
  | .crcclr, s => complete { s with crc := Config.crcInit }
  | .crcbyte b, s => complete { s with crc := crcByte s.crc b }
  | .crcbit d, s => complete { s with crc := crcBit s.crc d }

theorem proceed_prompt {s : State} (h : s.prompt = true) : proceed s = finish s := if_pos h

theorem proceed_events {s : State} (h : s.prompt = false) : proceed s = s := if_neg (by simp [h])

theorem proceed_idle {s : State} (h : s.seq = .idle) : proceed s = s := by
  unfold proceed
  rw [finish_idle h, ite_self]

theorem proceed_raise (e : Err) (s : State) : proceed (raise e s) = raise e s := proceed_idle rfl

/-- Every command of an idle block is its start and what follows from it. -/
theorem exec_eq_proceed_start (i : Instr) {s : State} (h : s.seq = .idle) : exec i s = .next (proceed (start i s)) := by
  cases i with
  | init => rfl
  | rdreg a =>
    simp only [exec, execRdreg, start]
    split
    · rfl
    · rw [proceed_raise]
  | wrreg a w =>
    simp only [exec, execWrreg, start]
    split
    · rfl
    · rw [proceed_raise]
  | eeupd a w =>
    simp only [exec, execEeupd, start]
    split
    · rfl
    · rw [proceed_raise]
  | crcclr => rw [proceed_idle (s := start .crcclr s) h]; rfl
  | crcbyte b => rw [proceed_idle (s := start (.crcbyte b) s) h]; rfl
  | crcbit d => rw [proceed_idle (s := start (.crcbit d) s) h]; rfl

theorem start_rdreg {a : Byte} (s : State) (h : readable a = true) :
    start (.rdreg a) s = enter .rdBegin { noteUse s with addr := a, rvalid := false, pecerr := false } := if_pos h

theorem start_wrreg {a : Byte} (w : Half) (s : State) (h : writable a = true) :
    start (.wrreg a w) s = beginWrite { noteUse s with addr := a, wdata := w } := if_pos h

theorem start_eeupd {a : Byte} (w : Half) (s : State) (h : writable a = true) :
    start (.eeupd a w) s = beginWrite { noteUse s with addr := a, wdata := w, ee := .erasing } := if_pos h

theorem start_inWorld (p : Bool) (l : List Input) (reads : List Word) (i : Instr) (s : State) :
    start i (inWorld p l reads s) = inWorld p l reads (start i s) := by
  cases i with
  | init => rfl
  | rdreg a => simp only [start, apply_ite (inWorld p l reads)]; rfl
  | wrreg a w => simp only [start, apply_ite (inWorld p l reads)]; rfl
  | eeupd a w => simp only [start, apply_ite (inWorld p l reads)]; rfl
  | crcclr => rfl
  | crcbyte b => rfl
  | crcbit d => rfl

theorem start_prompt (i : Instr) (s : State) : (start i s).prompt = s.prompt :=
  (congrArg State.prompt (start_inWorld s.prompt s.inputs s.hostReads i s) :)

theorem start_ready (i : Instr) (s : State) : (start i s).ready = s.ready := by
  cases i with
  | rdreg a => simp only [start]; split <;> rfl
  | wrreg a w => simp only [start]; split <;> rfl
  | eeupd a w => simp only [start]; split <;> rfl
  | init => rfl
  | crcclr => rfl
  | crcbyte b => rfl
  | crcbit d => rfl

/-- Only `INIT` starts a session (R15). -/
theorem start_seq_ne {i : Instr} {s : State} (hi : i ≠ .init) (hs : s.seq = .idle) : (start i s).seq ≠ .inSession := by
  cases i with
  | init => exact absurd rfl hi
  | rdreg a => simp only [start]; split <;> exact Phase.noConfusion
  | wrreg a w => simp only [start]; split <;> exact Phase.noConfusion
  | eeupd a w => simp only [start]; split <;> exact Phase.noConfusion
  | crcclr => simp [start, hs]
  | crcbyte b => simp [start, hs]
  | crcbit d => simp [start, hs]

/-! ## Refusals (R93) -/

theorem exec_rdreg_refused {a : Byte} (s : State) (h : readable a = false) : exec (.rdreg a) s = .next (raise .invalidOp s) :=
  if_neg (by simp [h])

theorem exec_wrreg_refused {a : Byte} (w : Half) (s : State) (h : writable a = false) :
    exec (.wrreg a w) s = .next (raise .invalidOp s) := if_neg (by simp [h])

theorem exec_eeupd_refused {a : Byte} (w : Half) (s : State) (h : writable a = false) :
    exec (.eeupd a w) s = .next (raise .invalidOp s) := if_neg (by simp [h])

/-! ## The ends of the framer commands in a prompt environment (R66 to R68; that of EEUPD is `exec_eeupd_writable`) -/

/-- An accepted RDREG with its three bytes taken, in front of the PEC check (R64). -/
def frameRead (a : Byte) (s : State) : State :=
  { noteUse s with
    seq := .idle
    addr := a
    rvalid := false
    pecerr := false
    rdata := joinWord (rxAt s 0) (rxAt s 1)
    pecrx := rxAt s 2
    rx := s.rx.drop 3
    drawn := s.drawn + (3 - s.rx.length)
    trace := s.trace ++ readEvents a (rxAt s 0) (rxAt s 1) (rxAt s 2) }

theorem exec_init_prompt {s : State} (hp : s.prompt = true) :
    exec .init s = .next (complete { s with seq := .idle, ready := true, trace := s.trace ++ [.beginSession] }) := by
  have hrun : finish (enter .inSession s) =
      complete { s with seq := .idle, ready := true, trace := s.trace ++ [.beginSession] } :=
    finish_eq 1 (by decide) rfl rfl
  rw [← hrun, ← proceed_prompt (s := enter .inSession s) hp]
  rfl

theorem exec_rdreg_readable {s : State} {a : Byte} (hp : s.prompt = true) (ha : readable a = true) :
    exec (.rdreg a) s = .next (pecCheck (frameRead a s)) := by
  have hexec : exec (.rdreg a) s =
      .next (proceed (enter .rdBegin { noteUse s with addr := a, rvalid := false, pecerr := false })) := if_pos ha
  rw [hexec, proceed_prompt, finish_read]
  · rfl
  · exact hp

theorem exec_wrreg_writable {s : State} {a : Byte} (w : Half) (hp : s.prompt = true) (he : s.ee = .idle)
    (ha : writable a = true) :
    exec (.wrreg a w) s = .next (complete { noteUse s with
      seq := .idle
      addr := a
      wdata := w
      crc := crc8 [0xB4, a, lo w, hi w]
      trace := s.trace ++ writeEvents a w }) := by
  have hexec : exec (.wrreg a w) s = .next (proceed (beginWrite { noteUse s with addr := a, wdata := w })) := if_pos ha
  rw [hexec, proceed_prompt, finish_write]
  · rfl
  · exact he
  · exact hp

/-- The PEC check overwrites `err` (R17, R69). -/
theorem pecCheck_old_err (e : BitVec 3) (s : State) : pecCheck { s with err := e } = pecCheck s := by
  simp only [pecCheck]
  rfl

end Sys2Proof.Machine
end

section
/-! SUPPORT. What commands write and leave unchanged, whatever went before: O8, O26, O27, O28. -/

namespace Sys2Proof.Machine

/-- R17: in a prompt environment no command's meaning looks at the old `err`. -/
theorem exec_old_err (i : Instr) {s : State} (e : BitVec 3) (he : s.ee = .idle) (hp : s.prompt = true) :
    exec i { s with err := e } = exec i s := by
  cases i with
  | init => rw [exec_init_prompt hp, exec_init_prompt (s := { s with err := e }) hp]; rfl
  | rdreg a =>
    cases ha : readable a with
    | false => rw [exec_rdreg_refused _ ha, exec_rdreg_refused _ ha]; rfl
    | true =>
      rw [exec_rdreg_readable hp ha, exec_rdreg_readable (s := { s with err := e }) hp ha, ← pecCheck_old_err e]
      rfl
  | wrreg a w =>
    cases ha : writable a with
    | false => rw [exec_wrreg_refused _ _ ha, exec_wrreg_refused _ _ ha]; rfl
    | true => rw [exec_wrreg_writable w hp he ha, exec_wrreg_writable (s := { s with err := e }) w hp he ha]; rfl
  | eeupd a w =>
    cases ha : writable a with
    | false => rw [exec_eeupd_refused _ _ ha, exec_eeupd_refused _ _ ha]; rfl
    | true => rw [exec_eeupd_writable w hp ha, exec_eeupd_writable (s := { s with err := e }) w hp ha]; rfl
  | crcclr => rfl
  | crcbyte b => rfl
  | crcbit d => rfl

/-- Settles O8: an illegal word and a command alike overwrite `err`. -/
theorem oldErrHasNoEffect : Obligations.OldErrHasNoEffect := by
  unfold Obligations.OldErrHasNoEffect
  intro s c e ⟨_, he⟩ hp
  unfold command
  cases decode c with
  | error r => rfl
  | ok i => exact exec_old_err i e he hp

/-- Settles O26: the end of each command, refused or run, against the columns of R20. -/
theorem commandsWriteWhatTheMatrixMarks : Obligations.CommandsWriteWhatTheMatrixMarks := by
  unfold Obligations.CommandsWriteWhatTheMatrixMarks
  intro s t i ⟨hs, he⟩ hv hp h
  cases i with
  | init =>
    rw [exec_init_prompt hp] at h
    cases h
    simp [he]
  | rdreg a =>
    cases ha : readable a with
    | false =>
      rw [exec_rdreg_refused _ ha] at h
      cases h
      simp
    | true =>
      rw [exec_rdreg_readable hp ha, pecCheck_eq (s := frameRead a s) rfl he] at h
      cases h
      simp [frameRead, he]
  | wrreg a w =>
    cases ha : writable a with
    | false =>
      rw [exec_wrreg_refused _ _ ha] at h
      cases h
      simp
    | true =>
      rw [exec_wrreg_writable w hp he ha] at h
      cases h
      simp [he]
  | eeupd a w =>
    cases ha : writable a with
    | false =>
      rw [exec_eeupd_refused _ _ ha] at h
      cases h
      simp
    | true =>
      rw [exec_eeupd_writable w hp ha] at h
      cases h
      simp [SettleTimer.clear_of_zero hv]
  | crcclr =>
    cases h
    simp [hs, he]
  | crcbyte b =>
    cases h
    simp [hs, he]
  | crcbit d =>
    cases h
    simp [hs, he]

/-- Settles O27: the end of each framer command names the operands, the parameters and the transport's bytes only. -/
theorem framerCommandsForgetEarlierOnes : Obligations.FramerCommandsForgetEarlierOnes := by
  unfold Obligations.FramerCommandsForgetEarlierOnes
  intro s t s' t' i ⟨_, hes⟩ ⟨_, het⟩ hps hpt hcfg hticks hrx hdrawn hi hs' ht'
  have hbyte (k : Nat) : rxAt s k = rxAt t k := rxAt_congr hrx hdrawn k
  obtain rfl | ⟨a, rfl⟩ | ⟨a, w, rfl⟩ | ⟨a, w, rfl⟩ := hi
  · rw [exec_init_prompt hps] at hs'
    rw [exec_init_prompt hpt] at ht'
    cases hs'
    cases ht'
    simp [hrx, hdrawn]
  · cases ha : readable a with
    | false =>
      rw [exec_rdreg_refused _ ha] at hs' ht'
      cases hs'
      cases ht'
      simp [hrx, hdrawn, ha]
    | true =>
      rw [exec_rdreg_readable hps ha, pecCheck_eq (s := frameRead a s) rfl hes] at hs'
      rw [exec_rdreg_readable hpt ha, pecCheck_eq (s := frameRead a t) rfl het] at ht'
      cases hs'
      cases ht'
      simp [frameRead, hcfg, hrx, hdrawn, hbyte]
  · cases ha : writable a with
    | false =>
      rw [exec_wrreg_refused _ _ ha] at hs' ht'
      cases hs'
      cases ht'
      simp [hrx, hdrawn, ha]
    | true =>
      rw [exec_wrreg_writable w hps hes ha] at hs'
      rw [exec_wrreg_writable w hpt het ha] at ht'
      cases hs'
      cases ht'
      simp [hrx, hdrawn]
  · cases ha : writable a with
    | false =>
      rw [exec_eeupd_refused _ _ ha] at hs' ht'
      cases hs'
      cases ht'
      simp [hrx, hdrawn, ha]
    | true =>
      rw [exec_eeupd_writable w hps ha] at hs'
      rw [exec_eeupd_writable w hpt ha] at ht'
      cases hs'
      cases ht'
      simp [hrx, hdrawn, hticks]

/-- A run marked by `noteUse` at `ready` = 0 is never final (R119, U1). -/
theorem not_final_of_usedBeforeInit {s : State} (h : s.record.usedBeforeInit = true) : ¬ s.Final := by
  rintro ⟨_, hused, _⟩
  rw [h] at hused
  exact Bool.noConfusion hused

/-- Settles O28: the end of each command, from both values of `ready`. -/
theorem useBeforeInitRunsAndIsMarked : Obligations.UseBeforeInitRunsAndIsMarked := by
  unfold Obligations.UseBeforeInitRunsAndIsMarked
  rintro s i ⟨_, he⟩ hp hwf (⟨a, rfl⟩ | ⟨a, w, rfl⟩ | ⟨a, w, rfl⟩)
  · have ha : readable a = true := hwf
    refine ⟨_, _, exec_rdreg_readable hp ha, exec_rdreg_readable hp ha, ?_, ?_⟩
    · rw [pecCheck_eq (s := frameRead a { s with ready := false }) rfl he,
        pecCheck_eq (s := frameRead a { s with ready := true }) rfl he]
      have hbyte (k : Nat) : rxAt { s with ready := false } k = rxAt { s with ready := true } k := rfl
      simp [frameRead, noteUse, hbyte]
    · rw [pecCheck_eq (s := frameRead a { s with ready := false }) rfl he]
      exact not_final_of_usedBeforeInit (by simp [frameRead])
  · have ha : writable a = true := hwf
    refine ⟨_, _, exec_wrreg_writable w hp he ha, exec_wrreg_writable w hp he ha, ?_, ?_⟩
    · simp [complete, noteUse]
    · exact not_final_of_usedBeforeInit (by simp)
  · have ha : writable a = true := hwf
    refine ⟨_, _, exec_eeupd_writable w hp ha, exec_eeupd_writable w hp ha, ?_, ?_⟩
    · simp [complete, noteUse]
    · exact not_final_of_usedBeforeInit (by simp)

end Sys2Proof.Machine
end

section
/-! SUPPORT. The invariant of the sequencer by parts: what holds in every phase (`SteadyInv`), what the phase adds (`PhaseInv`), and
the environment's clause. A phase keeps the first two, in either environment; that a command ends in IDLE gives the third. -/

namespace Sys2Proof.Machine

/-- The clauses of `SequencerInv` that do not speak of the phase. -/
structure SteadyInv (s : State) : Prop where
  params : s.ParamsValid
  legal : s.err.toNat ≤ 3
  enforced : s.cfg.pecEnforce = true → s.rvalid = true → s.pecerr = false

/-- `SequencerInv` without its clause about the prompt environment, which the phases inside a command do not meet. -/
structure PhaseInv (s : State) : Prop extends SteadyInv s where
  agree : phasesAgree s.ee s.seq = true
  counting : s.seq = .settle → 1 ≤ s.settle.value ∧ s.settle.value ≤ s.settle.ticks
  stopped : s.seq ≠ .settle → s.settle.value = 0
  pec : inWrite s.seq = true → s.crc = crc8 [0xB4, s.addr, lo (frameWord s), hi (frameWord s)]
  readAddr : inRead s.seq = true → readable s.addr = true
  writeAddr : inWrite s.seq = true ∨ s.seq = .settle → writable s.addr = true
  flags : inRead s.seq = true → s.rvalid = false ∧ s.pecerr = false

theorem sequencerInv_iff {s : State} : SequencerInv s ↔ PhaseInv s ∧ (s.prompt = true → s.seq = .idle) := by
  constructor
  · rintro ⟨params, agree, counting, stopped, legal, pec, readAddr, writeAddr, flags, enforced, hprompt⟩
    exact ⟨{ params, legal, enforced, agree, counting, stopped, pec, readAddr, writeAddr, flags }, hprompt⟩
  · rintro ⟨h, hprompt⟩
    exact ⟨h.params, h.agree, h.counting, h.stopped, h.legal, h.pec, h.readAddr, h.writeAddr, h.flags, h.enforced, hprompt⟩

/-! ## The groups of phases exclude each other (R15, R16) -/

theorem inRead_excludes {p : Phase} (h : inRead p = true) :
    p ≠ .settle ∧ inWrite p = false ∧ phasesAgree .idle p = true := by
  cases p <;> simp_all [inRead, inWrite, phasesAgree]

theorem inWrite_excludes {p : Phase} (h : inWrite p = true) : p ≠ .settle ∧ inRead p = false := by
  cases p <;> simp_all [inRead, inWrite]

/-- Outside the write frame and SETTLE, `ee` is idle. -/
theorem ee_idle_of_agree {e : EePhase} {p : Phase} (h : phasesAgree e p = true) (hp : inWrite p = false) (hs : p ≠ .settle) :
    e = .idle := by
  cases e <;> simp_all [phasesAgree]

/-- The phases of a write frame agree with the same `ee` states. -/
theorem phasesAgree_write {p q : Phase} (hp : inWrite p = true) (hq : inWrite q = true) (e : EePhase) :
    phasesAgree e p = phasesAgree e q := by
  have hp' := (inWrite_excludes hp).1
  have hq' := (inWrite_excludes hq).1
  cases e <;> simp [phasesAgree, hp, hq, hp', hq', bne]

/-! ## The phases a state can be put in -/

variable {s : State}

/-- In IDLE the invariant asks for the idle pair and an empty counter only. -/
theorem PhaseInv.of_idle (h : SteadyInv s) (hs : s.seq = .idle) (he : s.ee = .idle) (hv : s.settle.value = 0) : PhaseInv s where
  toSteadyInv := h
  agree := by rw [hs, he]; rfl
  counting := by simp [hs]
  stopped := fun _ => hv
  pec := by simp [hs, inWrite]
  readAddr := by simp [hs, inRead]
  writeAddr := by simp [hs, inWrite]
  flags := by simp [hs, inRead]

theorem PhaseInv.enter_inSession (h : SteadyInv s) (he : s.ee = .idle) (hv : s.settle.value = 0) :
    PhaseInv (enter .inSession s) where
  toSteadyInv := ⟨h.params, h.legal, h.enforced⟩
  agree := by rw [enter_ee, he]; rfl
  counting := by simp
  stopped := fun _ => hv
  pec := by simp [inWrite]
  readAddr := by simp [inRead]
  writeAddr := by simp [inWrite]
  flags := by simp [inRead]

theorem PhaseInv.enter_read {p : Phase} (hp : inRead p = true) (h : SteadyInv s) (he : s.ee = .idle) (hv : s.settle.value = 0)
    (ha : readable s.addr = true) (hf : s.rvalid = false ∧ s.pecerr = false) : PhaseInv (enter p s) := by
  obtain ⟨hsettle, hwrite, hagree⟩ := inRead_excludes hp
  exact
    { params := h.params, legal := h.legal, enforced := h.enforced
      agree := by rw [enter_ee, he]; exact hagree
      counting := fun hs => absurd hs hsettle
      stopped := fun _ => hv
      pec := by simp [hwrite]
      readAddr := fun _ => ha
      writeAddr := by simp [hwrite, hsettle]
      flags := fun _ => hf }

theorem PhaseInv.enter_write {p : Phase} (hp : inWrite p = true) (h : SteadyInv s) (he : phasesAgree s.ee .wrBegin = true)
    (hv : s.settle.value = 0) (ha : writable s.addr = true)
    (hc : s.crc = crc8 [0xB4, s.addr, lo (frameWord s), hi (frameWord s)]) : PhaseInv (enter p s) := by
  obtain ⟨hsettle, hread⟩ := inWrite_excludes hp
  exact
    { params := h.params, legal := h.legal, enforced := h.enforced
      agree := (phasesAgree_write rfl hp s.ee).symm.trans he
      counting := fun hs => absurd hs hsettle
      stopped := fun _ => hv
      pec := fun _ => hc
      readAddr := by simp [hread]
      writeAddr := fun _ => ha
      flags := by simp [hread] }

/-- R65: a write frame begins with its PEC computed. -/
theorem PhaseInv.beginWrite (h : SteadyInv s) (he : phasesAgree s.ee .wrBegin = true) (hv : s.settle.value = 0)
    (ha : writable s.addr = true) : PhaseInv (beginWrite s) := by
  refine PhaseInv.enter_write (s := { s with crc := writePec s.addr (frameWord s) }) rfl
    ⟨h.params, h.legal, h.enforced⟩ he hv ha ?_
  show writePec s.addr (frameWord s) = _
  rw [writePec, writePayload, devW_eq]
  rfl

/-! ## What keeps the invariant -/

theorem errCode_le (e : Err) : (errCode e).toNat ≤ 3 := by cases e <;> decide

theorem SteadyInv.raise (h : SteadyInv s) (e : Err) : SteadyInv (raise e s) :=
  ⟨h.params, errCode_le e, h.enforced⟩

/-- R69: an enforced check that fails leaves no valid word, so that a valid word with a PEC error is never enforced. -/
theorem PhaseInv.pecCheck (h : SteadyInv s) (hs : s.seq = .idle) (he : s.ee = .idle) (hv : s.settle.value = 0) :
    PhaseInv (pecCheck s) := by
  rw [pecCheck_eq hs he]
  refine PhaseInv.of_idle ⟨h.params, ?_, ?_⟩ hs he hv
  · show (ite _ _ _ : BitVec 3).toNat ≤ 3
    split <;> decide
  · intro (henf : s.cfg.pecEnforce = true)
    simp [henf]

/-- R73, R74: the end of a settle wait starts the value frame or completes the command. -/
theorem PhaseInv.settleDone (h : SteadyInv s) (hv : s.settle.value = 0) (ha : writable s.addr = true) :
    PhaseInv (settleDone s) := by
  unfold Machine.settleDone
  split
  · exact PhaseInv.beginWrite ⟨h.params, h.legal, h.enforced⟩ rfl hv ha
  · exact PhaseInv.of_idle ⟨h.params, Nat.zero_le 3, h.enforced⟩ rfl rfl hv

/-- R74, R75: a frame of an EEUPD ends in a settling state with the counter loaded. -/
theorem PhaseInv.beginSettle (h : SteadyInv s) (he : s.ee ≠ .idle) (hagree : phasesAgree s.ee .wrBegin = true)
    (ha : writable s.addr = true) : PhaseInv (beginSettle s) where
  params := h.params
  legal := h.legal
  enforced := h.enforced
  agree := by
    rw [beginSettle_ee, beginSettle_seq]
    cases hee : s.ee <;> simp_all [settlingAfter, phasesAgree, inWrite]
  counting := by
    intro _
    rw [beginSettle_settle, SettleTimer.load_value]
    exact ⟨h.params.1, le_rfl⟩
  stopped := fun hs => absurd rfl hs
  pec := by simp [inWrite]
  readAddr := by simp [inRead]
  writeAddr := fun _ => ha
  flags := by simp [inRead]

theorem PhaseInv.ee_idle (h : PhaseInv s) (hw : inWrite s.seq = false) (hs : s.seq ≠ .settle) : s.ee = .idle :=
  ee_idle_of_agree h.agree hw hs

/-- The return of a primitive keeps the invariant, row by row (R15, R70). -/
theorem PhaseInv.primitiveReturn (h : PhaseInv s) : PhaseInv (primitiveReturn s) := by
  have hsteady := h.toSteadyInv
  obtain ⟨q, hq⟩ | hs | hs | hs | hs | hs | hs | hs := plainNext_cases s.seq
  · rw [primitiveReturn_plain hq]
    obtain ⟨hp, hq⟩ | ⟨hp, hq⟩ := plainNext_group hq
    · obtain ⟨hsettle, hwrite, _⟩ := inRead_excludes hp
      exact .enter_read hq hsteady (h.ee_idle hwrite hsettle) (h.stopped hsettle) (h.readAddr hp) (h.flags hp)
    · exact .enter_write hq hsteady ((phasesAgree_write rfl hp s.ee).trans h.agree) (h.stopped (inWrite_excludes hp).1)
        (h.writeAddr (.inl hp)) (h.pec hp)
  · rw [primitiveReturn_inSession hs]
    have hsettle : s.seq ≠ .settle := by simp [hs]
    exact .of_idle ⟨h.params, Nat.zero_le 3, h.enforced⟩ rfl (h.ee_idle (by rw [hs]; rfl) hsettle) (h.stopped hsettle)
  · have hp : inRead s.seq = true := by rw [hs]; rfl
    obtain ⟨hsettle, hwrite, _⟩ := inRead_excludes hp
    rw [primitiveReturn_rdLo hs, takeLo_eq]
    exact .enter_read rfl ⟨h.params, h.legal, h.enforced⟩ (h.ee_idle hwrite hsettle) (h.stopped hsettle) (h.readAddr hp) (h.flags hp)
  · have hp : inRead s.seq = true := by rw [hs]; rfl
    obtain ⟨hsettle, hwrite, _⟩ := inRead_excludes hp
    rw [primitiveReturn_rdHi hs, takeHi_eq]
    exact .enter_read rfl ⟨h.params, h.legal, h.enforced⟩ (h.ee_idle hwrite hsettle) (h.stopped hsettle) (h.readAddr hp) (h.flags hp)
  · have hp : inRead s.seq = true := by rw [hs]; rfl
    obtain ⟨hsettle, hwrite, _⟩ := inRead_excludes hp
    rw [primitiveReturn_rdPec hs, takePec_eq]
    exact .pecCheck ⟨h.params, h.legal, h.enforced⟩ rfl (h.ee_idle hwrite hsettle) (h.stopped hsettle)
  · have hp : inWrite s.seq = true := by rw [hs]; rfl
    rw [primitiveReturn_wrStop hs]
    split
    · next he =>
      exact .of_idle ⟨h.params, Nat.zero_le 3, h.enforced⟩ rfl he (h.stopped (inWrite_excludes hp).1)
    · next he =>
      exact .beginSettle hsteady he ((phasesAgree_write rfl hp s.ee).trans h.agree) (h.writeAddr (.inl hp))
  · rwa [primitiveReturn_idle hs]
  · rwa [primitiveReturn_settle hs]

/-- A tick keeps the invariant: the counter goes down to 1 and no further inside SETTLE (R75). -/
theorem PhaseInv.tick (h : PhaseInv s) : PhaseInv (tick s) := by
  obtain ⟨_, ht⟩ | ⟨hs, _, ht⟩ | ⟨hs, hv, ht⟩ := tick_cases s
  · rwa [ht]
  · rw [ht]
    exact .settleDone (s := { s with settle := s.settle.clear }) ⟨h.params, h.legal, h.enforced⟩ rfl (h.writeAddr (.inr hs))
  · rw [ht]
    obtain ⟨_, hmax⟩ := h.counting hs
    have hdown : s.settle.countDown.value = s.settle.value - 1 := SettleTimer.countDown_value hv.le
    exact
      { params := h.params, legal := h.legal, enforced := h.enforced, agree := h.agree
        counting := fun _ => by
          show 1 ≤ s.settle.countDown.value ∧ s.settle.countDown.value ≤ s.settle.ticks
          omega
        stopped := fun hne => absurd hs hne
        pec := h.pec, readAddr := h.readAddr, writeAddr := h.writeAddr, flags := h.flags }

theorem PhaseInv.advance (h : PhaseInv s) : PhaseInv (advance s) := by
  by_cases hs : s.seq = .settle
  · rw [advance_settle hs]
    exact .settleDone (s := { s with settle := s.settle.clear }) ⟨h.params, h.legal, h.enforced⟩ rfl (h.writeAddr (.inr hs))
  · rw [advance_busy hs]
    exact h.primitiveReturn

theorem PhaseInv.finish (h : PhaseInv s) : PhaseInv (finish s) := by
  suffices hN : ∀ n, ∀ s, PhaseInv s → PhaseInv (advanceN n s) from hN longestCommand s h
  intro n
  induction n with
  | zero => exact fun _ h => h
  | succ n ih =>
    intro s h
    rw [advanceN_succ]
    exact ih _ h.advance

theorem PhaseInv.applyReset (h : s.ParamsValid) : PhaseInv (applyReset s) :=
  .of_idle ⟨h, Nat.zero_le 3, fun _ hv => absurd hv Bool.false_ne_true⟩ rfl rfl rfl

/-- A command taken in IDLE starts in a phase that meets the invariant (R58 to R60, R66 to R68, R72). -/
theorem PhaseInv.start (i : Instr) (h : PhaseInv s) (hs : s.seq = .idle) : PhaseInv (start i s) := by
  have hsteady := h.toSteadyInv
  have he : s.ee = .idle := h.ee_idle (by rw [hs]; rfl) (by simp [hs])
  have hv : s.settle.value = 0 := h.stopped (by simp [hs])
  have hrefused : PhaseInv (raise .invalidOp s) := .of_idle (hsteady.raise _) rfl rfl hv
  cases i with
  | init => exact .enter_inSession hsteady he hv
  | rdreg a =>
    simp only [Machine.start]
    split
    · next ha => exact .enter_read rfl ⟨h.params, h.legal, fun _ hf => absurd hf Bool.false_ne_true⟩ he hv ha ⟨rfl, rfl⟩
    · exact hrefused
  | wrreg a w =>
    simp only [Machine.start]
    split
    · next ha => exact .beginWrite ⟨h.params, h.legal, h.enforced⟩ (by show phasesAgree s.ee _ = _; rw [he]; rfl) hv ha
    · exact hrefused
  | eeupd a w =>
    simp only [Machine.start]
    split
    · next ha => exact .beginWrite ⟨h.params, h.legal, h.enforced⟩ rfl hv ha
    · exact hrefused
  | crcclr => exact .of_idle ⟨h.params, Nat.zero_le 3, h.enforced⟩ hs he hv
  | crcbyte b => exact .of_idle ⟨h.params, Nat.zero_le 3, h.enforced⟩ hs he hv
  | crcbit d => exact .of_idle ⟨h.params, Nat.zero_le 3, h.enforced⟩ hs he hv

/-- A command keeps the whole invariant: with a prompt environment it ends in IDLE, with the other one it waits in its first phase. -/
theorem exec_keeps_sequencerInv {s t : State} {i : Instr} (h : SequencerInv s) (hs : s.seq = .idle) (ht : exec i s = .next t) :
    SequencerInv t := by
  obtain ⟨hphase, _⟩ := sequencerInv_iff.1 h
  have hstart : PhaseInv (start i s) := hphase.start i hs
  have ht' := ht
  rw [exec_eq_proceed_start i hs] at ht'
  obtain rfl := Host.Outcome.next.inj ht'
  rw [sequencerInv_iff]
  cases hp : s.prompt with
  | false =>
    have hp' : (start i s).prompt = false := (start_prompt i s).trans hp
    rw [proceed_events hp']
    exact ⟨hstart, by simp [hp']⟩
  | true =>
    have hidle : s.Idle := ⟨hs, hphase.ee_idle (by rw [hs]; rfl) (by simp [hs])⟩
    obtain ⟨_, _, _, _, _, _, hseq, _⟩ := commandsWriteWhatTheMatrixMarks s _ i hidle (hphase.stopped (by simp [hs])) hp ht
    rw [proceed_prompt ((start_prompt i s).trans hp)] at hseq ⊢
    exact ⟨hstart.finish, fun _ => hseq⟩

theorem idleStep_keeps_sequencerInv {s t : State} (h : SequencerInv s) (hs : s.seq = .idle) (ht : idleStep s = .next t) :
    SequencerInv t := by
  obtain ⟨_, rfl⟩ | ⟨i, rest, _, hcase⟩ := idleStep_cases ht
  · exact h
  · have htaken : SequencerInv { s with inputs := rest } := h
    obtain ⟨c, _, hc⟩ | ⟨r, v, _, _, rfl⟩ | ⟨r, _, rfl⟩ | ⟨_, rfl⟩ | ⟨_, rfl⟩ := hcase
    · obtain ⟨i, _, hi⟩ | ⟨_, rfl⟩ := command_cases hc
      · exact exec_keeps_sequencerInv htaken hs hi
      · obtain ⟨hphase, _⟩ := sequencerInv_iff.1 htaken
        exact sequencerInv_iff.2
          ⟨.of_idle (hphase.toSteadyInv.raise _) rfl rfl (hphase.stopped (by simp [hs])), fun _ => rfl⟩
    · exact htaken
    · exact htaken
    · exact htaken
    · exact sequencerInv_iff.2 ⟨.applyReset h.1, fun _ => rfl⟩

theorem busyStep_keeps_sequencerInv {s t : State} (h : SequencerInv s) (hs : s.seq ≠ .idle) (ht : busyStep s = .next t) :
    SequencerInv t := by
  obtain ⟨hphase, hprompt⟩ := sequencerInv_iff.1 h
  obtain ⟨hp, _⟩ | ⟨hp, i, rest, _, rfl⟩ := busyStep_cases ht
  · exact absurd (hprompt hp) hs
  · have htaken' : SequencerInv { s with inputs := rest } := h
    have htaken := (sequencerInv_iff.1 htaken').1
    have hp' : ¬ (busyInput i { s with inputs := rest }).prompt = true := by
      rw [busyInput_prompt]
      simp [hp]
    refine sequencerInv_iff.2 ⟨?_, fun hp => absurd hp hp'⟩
    cases i with
    | host a => exact htaken
    | ret => exact htaken.primitiveReturn
    | tick => exact htaken.tick
    | rst => exact .applyReset htaken.params

/-- Settles O43: an idle block starts or refuses a command, a busy one goes one row on, and each keeps every clause. -/
theorem everyStepKeepsTheSequencerInvariant : Obligations.EveryStepKeepsTheSequencerInvariant := by
  unfold Obligations.EveryStepKeepsTheSequencerInvariant
  intro s t h ht
  obtain ⟨hs, ht⟩ | ⟨hs, ht⟩ := step_cases ht
  · exact idleStep_keeps_sequencerInv h hs ht
  · exact busyStep_keeps_sequencerInv h hs ht

/-- Settles O42: after reset the block is in IDLE, and the parameters meet R5's constraint. -/
theorem resetMeetsTheSequencerInvariant : Obligations.ResetMeetsTheSequencerInvariant :=
  sequencerInv_iff.2
    ⟨.of_idle ⟨by decide, Nat.zero_le 3, fun _ hv => absurd hv Bool.false_ne_true⟩ rfl rfl rfl, fun _ => rfl⟩

/-- Settles O39: R23's table, element by element. -/
theorem resetStateIsTheTables : Obligations.ResetStateIsTheTables := by
  unfold Obligations.ResetStateIsTheTables
  exact ⟨rfl, rfl, rfl, rfl, rfl, rfl, rfl, rfl, rfl, rfl, rfl, rfl, rfl⟩

/-- Settles O44: the trace is empty after reset. -/
theorem resetMeetsTheRestartRule : Obligations.ResetMeetsTheRestartRule := by
  unfold Obligations.ResetMeetsTheRestartRule
  exact ⟨rfl, fun h => absurd h (by decide)⟩

end Sys2Proof.Machine
end

section
/-! SUPPORT. The two decoder facts the steps need: the decoder reads back what the encoder writes, and INIT has one word (R46, R47). -/

namespace Sys2Proof.Laws

theorem checked_ok_iff {a w : Bool} {i j : Instr} : checked a w i = .ok j ↔ a = false ∧ w = false ∧ i = j := by
  cases a <;> cases w <;> simp [checked]

/-- R46, R47: the decoder reads back every encoded instruction. -/
theorem decode_encode (i : Instr) : decode (encode i) = .ok i := by
  cases i with
  | init => decide
  | rdreg a => simp [decode, encode, checked]
  | wrreg a w => simp [decode, encode]
  | eeupd a w => simp [decode, encode]
  | crcclr => decide
  | crcbyte b => simp [decode, encode, checked]
  | crcbit d => cases d <;> decide

/-- R47: only one word is INIT, for its mask is all ones. -/
theorem eq_of_decode_init {c : Word} (h : decode c = .ok .init) : c = 0x10000000 := by
  unfold decode at h
  split at h
  · cases h
  next hz =>
  split at h
  · next hop =>
    obtain ⟨ha, hw, _⟩ := checked_ok_iff.1 h
    have hA : fieldA c = 0 := by simpa using ha
    have hW : fieldW c = 0 := by simpa using hw
    rw [← word_eq_fields c (by simpa using hz), hop, hA, hW]
    decide
  · exfalso
    revert h
    repeat' split
    all_goals simp [checked_ok_iff]

end Sys2Proof.Laws
end

section
/-! SUPPORT. Steps of the machine by the input they take (R18, R70): O34, O35, O36, O40. -/

namespace Sys2Proof.Machine

open Sys2Proof.Laws

variable {s : State} {rest : List Input}

/-! ## The step of an idle block that has an input -/

theorem step_idle {i : Input} (hs : s.seq = .idle) (hi : s.inputs = i :: rest) :
    step s = idleInput i { s with inputs := rest } := by
  rw [step, if_pos hs, idleStep, hi]

theorem step_cmdWrite {c : Word} (hs : s.seq = .idle) (hi : s.inputs = .host (.write 0 c) :: rest) :
    step s = command c { s with inputs := rest } := step_idle hs hi

theorem command_of_decode {c : Word} {i : Instr} (h : decode c = .ok i) (s : State) : command c s = exec i s := by
  rw [command, h]

theorem command_of_illegal {c : Word} (h : ∀ i, decode c ≠ .ok i) (s : State) : command c s = .next (raise .illegalCmd s) := by
  unfold command
  cases hc : decode c with
  | error e => rfl
  | ok i => exact absurd hc (h i)

/-- Settles O34: the step is the command, and the decoder's answer decides which. -/
theorem stepExecutesTheWrittenCommand : Obligations.StepExecutesTheWrittenCommand := by
  unfold Obligations.StepExecutesTheWrittenCommand
  intro s c rest ⟨hs, he⟩ hi
  have hstep := step_cmdWrite hs hi
  refine ⟨hstep, fun i hc => ?_, fun hc => ?_⟩
  · rw [hstep, command_of_decode hc]
  · rw [hstep, command_of_illegal hc]
    simp [raise, errCode, hs, he]

/-! ## Host reads -/

/-- A concatenation as a number. -/
theorem toNat_append_eq {m n : Nat} (x : BitVec m) (y : BitVec n) : (x ++ y).toNat = x.toNat * 2 ^ n + y.toNat := by
  rw [BitVec.toNat_append, ← Nat.shiftLeft_add_eq_or_of_lt y.isLt, Nat.shiftLeft_eq]

theorem statusView_toNat (s : State) :
    (statusView s).toNat = s.ready.toNat + 2 * s.rvalid.toNat + 4 * s.pecerr.toNat + 8 * s.err.toNat := by
  simp only [statusView, toNat_append_eq, bitOf, BitVec.toNat_ofBool, BitVec.ofNat_eq_ofNat, BitVec.toNat_ofNat]
  omega

theorem rdataView_toNat (s : State) : (rdataView s).toNat = s.rdata.toNat := by
  simp only [rdataView, toNat_append_eq, BitVec.ofNat_eq_ofNat, BitVec.toNat_ofNat]
  omega

theorem pecView_toNat (s : State) : (pecView s).toNat = s.crc.toNat + 256 * s.pecrx.toNat := by
  simp only [pecView, toNat_append_eq, BitVec.ofNat_eq_ofNat, BitVec.toNat_ofNat]
  omega

/-- Settles O35: a read notes the register's view and a write to any register but CMD is dropped. -/
theorem hostRegistersAreReadOnlyViews : Obligations.HostRegistersAreReadOnlyViews := by
  unfold Obligations.HostRegistersAreReadOnlyViews
  intro s rest hs
  constructor
  · intro r hi
    refine ⟨hostView r s, step_idle hs hi, ?_, ?_, ?_, ?_⟩
    · rintro rfl
      rfl
    · rintro rfl
      exact statusView_toNat s
    · rintro rfl
      exact rdataView_toNat s
    · rintro rfl
      exact pecView_toNat s
  · intro r v hr hi
    exact (step_idle hs hi).trans (if_neg hr)

/-! ## A busy block -/

/-- Settles O36: neither the run of a phase nor the taking of an event touches the waiting accesses. -/
theorem busyBlockAcceptsNoHostAccess : Obligations.BusyBlockAcceptsNoHostAccess := by
  unfold Obligations.BusyBlockAcceptsNoHostAccess
  intro s t hs ht
  obtain ⟨hidle, _⟩ | ⟨_, ht⟩ := step_cases ht
  · exact absurd hidle hs
  obtain ⟨_, rfl⟩ | ⟨_, i, rest, hi, rfl⟩ := busyStep_cases ht
  · exact ⟨by rw [waitingAccesses, waitingAccesses, finish_inputs], finish_hostReads s⟩
  · obtain ⟨_, hrest⟩ := takeEvent_hosts hi
    exact ⟨by rw [waitingAccesses, waitingAccesses, busyInput_inputs]; exact hrest, busyInput_hostReads _ _⟩

/-! ## `ready` over a step (R11) -/

theorem proceed_ready_of_ne (h : s.seq ≠ .inSession) : (proceed s).ready = s.ready := by
  unfold proceed
  split
  · rw [finish_ready]
    simp [h]
  · rfl

theorem proceed_ready_mono (h : s.ready = true) : (proceed s).ready = true := by
  unfold proceed
  split
  · rw [finish_ready, h]
    rfl
  · exact h

theorem tick_ready (s : State) : (tick s).ready = s.ready := by
  obtain ⟨_, h⟩ | ⟨_, _, h⟩ | ⟨_, _, h⟩ := tick_cases s
  · rw [h]
  · rw [h, settleDone_ready]
  · rw [h]

/-- A command sets `ready` only if it is INIT, and clears it never. -/
theorem command_ready {c : Word} {t : State} (hs : s.seq = .idle) (h : command c s = .next t) :
    (s.ready = false → t.ready = true → c = 0x10000000) ∧ (s.ready = true → t.ready = true) := by
  obtain ⟨i, hi, hexec⟩ | ⟨_, rfl⟩ := command_cases h
  · rw [exec_eq_proceed_start i hs] at hexec
    obtain rfl := Host.Outcome.next.inj hexec
    refine ⟨fun h0 h1 => ?_, fun h1 => proceed_ready_mono (start_ready i s ▸ h1)⟩
    by_cases hinit : i = .init
    · exact eq_of_decode_init (hinit ▸ hi)
    · rw [proceed_ready_of_ne (start_seq_ne hinit hs), start_ready, h0] at h1
      exact Bool.noConfusion h1
  · exact ⟨fun h0 h1 => absurd (h0.symm.trans h1) Bool.false_ne_true, id⟩

/-- A step that leaves `ready` as it is neither sets nor clears it. -/
theorem ready_claims_of_eq {a b : Bool} {P Q : Prop} (h : b = a) :
    (a = false → b = true → P) ∧ (a = true → b = false → Q) := by
  subst h
  cases b <;> simp

/-- A step that can only set `ready`, and does so when an INIT ends, does not clear it. -/
theorem ready_claims_of_or {a b : Bool} {p : Phase} {P Q : Prop} (h : b = (a || decide (p = .inSession))) :
    (a = false → b = true → p = .inSession ∨ P) ∧ (a = true → b = false → Q) := by
  subst h
  cases a <;> simp +contextual

/-- Settles O40: `ready` over the input an idle block takes, and over what a busy block does. -/
theorem readyChangesOnlyByInitAndRst : Obligations.ReadyChangesOnlyByInitAndRst := by
  unfold Obligations.ReadyChangesOnlyByInitAndRst
  intro s t ht
  obtain ⟨hs, ht⟩ | ⟨hs, ht⟩ := step_cases ht
  · obtain ⟨_, rfl⟩ | ⟨i, rest, hi, ⟨c, rfl, hc⟩ | ⟨_, _, _, _, rfl⟩ | ⟨_, _, rfl⟩ | ⟨_, rfl⟩ | ⟨rfl, rfl⟩⟩ := idleStep_cases ht
    · exact ready_claims_of_eq rfl
    · obtain ⟨hset, hkeep⟩ := command_ready (s := { s with inputs := rest }) hs hc
      refine ⟨fun h0 h1 => .inr ?_, fun h1 h0 => ?_⟩
      · rw [hi, hset h0 h1]
        rfl
      · exact absurd (h0.symm.trans (hkeep h1)) Bool.false_ne_true
    · exact ready_claims_of_eq rfl
    · exact ready_claims_of_eq rfl
    · exact ready_claims_of_eq rfl
    · exact ⟨fun _ h1 => absurd h1 Bool.false_ne_true, fun _ _ => .inl ⟨hs, by rw [hi]; rfl⟩⟩
  · obtain ⟨_, rfl⟩ | ⟨_, i, rest, hi, rfl⟩ := busyStep_cases ht
    · exact ready_claims_of_or (finish_ready s)
    · cases i with
      | host a => exact ready_claims_of_eq rfl
      | ret => exact ready_claims_of_or (primitiveReturn_ready { s with inputs := rest })
      | tick => exact ready_claims_of_eq (tick_ready { s with inputs := rest })
      | rst => exact ⟨fun _ h1 => absurd h1 Bool.false_ne_true, fun _ _ => .inr ⟨hs, rest, hi⟩⟩

end Sys2Proof.Machine
end

section
/-! SUPPORT. The event environment: one return or tick a step (R15, R70, R75), and O29. -/

namespace Sys2Proof.Machine

variable {s : State} {rest : List Input}

theorem writePec_eq (a : Byte) (w : Half) : writePec a w = crc8 [0xB4, a, lo w, hi w] := by
  rw [writePec, writePayload, devW_eq]

/-- R65 as one record: the frame's PEC, and its first primitive called. -/
theorem beginWrite_eq (s : State) : beginWrite s = { s with
    seq := .wrBegin, crc := crc8 [0xB4, s.addr, lo (frameWord s), hi (frameWord s)], trace := s.trace ++ [.beginTx 0x5A] } := by
  rw [beginWrite, writePec_eq]
  rfl

theorem frameWord_of_ne_erasing (h : s.ee ≠ .erasing) : frameWord s = s.wdata := if_neg h

/-- The first data byte of a frame: of the erase value while erasing, else of `wdata` (R15). -/
theorem lo_frameWord (s : State) : lo (frameWord s) = if s.ee = .erasing then 0x00 else lo s.wdata := by
  unfold frameWord
  split
  · decide
  · rfl

theorem hi_frameWord (s : State) : hi (frameWord s) = if s.ee = .erasing then 0x00 else hi s.wdata := by
  unfold frameWord
  split
  · decide
  · rfl

/-- With events, a command taken in IDLE waits in its first phase. -/
theorem exec_events (i : Instr) (hs : s.seq = .idle) (hp : s.prompt = false) : exec i s = .next (start i s) := by
  rw [exec_eq_proceed_start i hs, proceed_events ((start_prompt i s).trans hp)]

/-- With events, an event at the head of the inputs is what a busy block takes. -/
theorem step_event {i : Input} (hs : s.seq ≠ .idle) (hp : s.prompt = false) (hi : takeEvent s.inputs = some (i, rest)) :
    step s = .next (busyInput i { s with inputs := rest }) := by
  rw [step, if_neg hs, busyStep, if_neg (by simp [hp]), hi]

theorem step_ret (hp : s.prompt = false) (hi : s.inputs = .ret :: rest) :
    step s = .next (primitiveReturn { s with inputs := rest }) := by
  by_cases hs : s.seq = .idle
  · rw [step_idle hs hi, primitiveReturn_idle (s := { s with inputs := rest }) hs]
    rfl
  · exact step_event hs hp (by rw [hi]; rfl)

theorem step_tick (hs : s.seq ≠ .idle) (hp : s.prompt = false) (hi : s.inputs = .tick :: rest) :
    step s = .next (tick { s with inputs := rest }) := step_event (i := .tick) hs hp (by rw [hi]; rfl)

/-- A return in a row with no effect of its own only enters the next phase (R15). -/
theorem step_ret_plain {q : Phase} (hp : s.prompt = false) (hi : s.inputs = .ret :: rest) (hq : plainNext s.seq = some q) :
    step s = .next (enter q { s with inputs := rest }) := by
  rw [step_ret hp hi, primitiveReturn_plain (s := { s with inputs := rest }) hq]

/-- The end of a frame of an EEUPD: SETTLE, with the counter loaded (R73, R74). -/
theorem step_ret_wrStop_settles (hp : s.prompt = false) (hi : s.inputs = .ret :: rest) (hs : s.seq = .wrStop) (he : s.ee ≠ .idle) :
    ∃ u : SettleTimer, u.ticks = s.settle.ticks ∧ u.value = s.settle.ticks ∧
      step s = .next { s with inputs := rest, ee := settlingAfter s.ee, seq := .settle, settle := u } := by
  refine ⟨s.settle.load, rfl, SettleTimer.load_value _, ?_⟩
  rw [step_ret hp hi, primitiveReturn_wrStop (s := { s with inputs := rest }) hs, if_neg he]
  rfl

/-- Settles O29: the start of each command, and the rows of R15's table. -/
theorem sequencerFollowsThePhaseTable : Obligations.SequencerFollowsThePhaseTable := by
  unfold Obligations.SequencerFollowsThePhaseTable
  constructor
  · intro s a w ⟨hs, he⟩ hp
    refine ⟨exec_events .init hs hp, fun ha => ?_, fun ha => ?_, fun ha => ?_⟩
    · rw [exec_events _ hs hp, start_rdreg s ha]
      rfl
    · rw [exec_events _ hs hp, start_wrreg w s ha, beginWrite_eq, frameWord_of_ne_erasing (by simp [he])]
      rfl
    · rw [exec_events _ hs hp, start_eeupd w s ha, beginWrite_eq, lo_frameWord, hi_frameWord]
      rfl
  · intro s rest hp hi
    have plain {q : Phase} (hq : plainNext s.seq = some q) := step_ret_plain hp hi hq
    refine ⟨fun h => ?inSession, fun h => plain (q := .rdAddr) (by rw [h]; rfl), fun h => plain (q := .rdRestart) (by rw [h]; rfl),
      fun h => plain (q := .rdReq) (by rw [h]; rfl), fun h => ?rdReq, fun h => ?rdLo, fun h => ?rdHi, fun h he => ?rdPec,
      fun h => plain (q := .wrAddr) (by rw [h]; rfl), fun h => ?wrAddr, fun h => ?wrLo,
      fun h => plain (q := .wrPec) (by rw [h]; rfl), fun h => plain (q := .wrStop) (by rw [h]; rfl), fun h he => ?wrStop,
      fun h he => ?erased, fun h he => ?written⟩
    case inSession =>
      rw [step_ret hp hi, primitiveReturn_inSession (s := { s with inputs := rest }) h]
      rfl
    case rdReq =>
      rw [plain (q := .rdLo) (by rw [h]; rfl)]
      simp [enter, callEvent]
    case rdLo =>
      rw [step_ret hp hi, primitiveReturn_rdLo (s := { s with inputs := rest }) h, takeLo_eq]
      simp only [enter, callEvent, List.append_nil]
      rfl
    case rdHi =>
      rw [step_ret hp hi, primitiveReturn_rdHi (s := { s with inputs := rest }) h, takeHi_eq]
      simp only [enter, callEvent, List.append_nil]
      rfl
    case rdPec =>
      rw [step_ret hp hi, primitiveReturn_rdPec (s := { s with inputs := rest }) h, takePec_eq, pecCheck_eq rfl]
      · rfl
      · exact he
    case wrAddr =>
      rw [plain (q := .wrLo) (by rw [h]; rfl), ← lo_frameWord]
      rfl
    case wrLo =>
      rw [plain (q := .wrHi) (by rw [h]; rfl), ← hi_frameWord]
      rfl
    case wrStop =>
      rw [step_ret hp hi, primitiveReturn_wrStop (s := { s with inputs := rest }) h, if_pos he]
      rfl
    case erased =>
      have hsettles := step_ret_wrStop_settles hp hi h (by simp [he])
      rwa [he] at hsettles
    case written =>
      have hsettles := step_ret_wrStop_settles hp hi h (by simp [he])
      rwa [he] at hsettles

end Sys2Proof.Machine
end

section
/-! SUPPORT. A command as a run of events: the returns and ticks that a phase waits for, in order, lead where the prompt environment
goes at once; O33. -/

namespace Sys2Proof.Machine

open Sys2Proof.Laws

/-- The events the current phase waits for: none in IDLE, the remaining ticks in SETTLE, else one return (R70, R75). -/
def phaseEvents (s : State) : List Input :=
  match s.seq with
  | .idle => []
  | .settle => List.replicate (s.settle.value - 1 + 1) .tick
  | _ => [.ret]

/-- The events of the next `n` phases. -/
def commandEvents : Nat → State → List Input
  | 0, _ => []
  | n + 1, s => phaseEvents s ++ commandEvents n (advance s)

theorem mem_phaseEvents {s : State} {e : Input} (h : e ∈ phaseEvents s) : e = .ret ∨ e = .tick := by
  unfold phaseEvents at h
  split at h
  · simp at h
  · exact .inr (List.eq_of_mem_replicate h)
  · exact .inl (List.mem_singleton.1 h)

theorem mem_commandEvents {n : Nat} {s : State} {e : Input} (h : e ∈ commandEvents n s) : e = .ret ∨ e = .tick := by
  induction n generalizing s with
  | zero => simp [commandEvents] at h
  | succ n ih =>
    obtain h | h := List.mem_append.1 h
    · exact mem_phaseEvents h
    · exact ih h

theorem run_of_step {s t : State} (k : Nat) (h : step s = .next t) :
    Host.Core.run Sys2Proof.core (k + 1) s = Host.Core.run Sys2Proof.core k t := by
  have hcore : Sys2Proof.core.step s = .next t := h
  simp only [Host.Core.run, hcore]

variable (k : Nat) (rest : List Input) (reads : List Word)

/-- The remaining ticks of a settle wait end it (R75). -/
theorem run_ticks (n : Nat) {s : State} (hs : s.seq = .settle) (hn : s.settle.value - 1 = n) :
    Host.Core.run Sys2Proof.core (k + (n + 1)) (inWorld false (List.replicate (n + 1) .tick ++ rest) reads s) =
      Host.Core.run Sys2Proof.core k (inWorld false rest reads (advance s)) := by
  induction n generalizing s with
  | zero =>
    have htick : tick s = advance s := by
      obtain ⟨hne, _⟩ | ⟨_, _, h⟩ | ⟨_, hv, _⟩ := tick_cases s
      · exact absurd hs hne
      · rw [h, advance_settle hs]
      · omega
    rw [← htick, ← tick_inWorld]
    exact run_of_step k (step_tick (s := inWorld false (.tick :: rest) reads s) (by simp [inWorld, hs]) rfl rfl)
  | succ n ih =>
    have htick : tick s = { s with settle := s.settle.countDown } := by
      obtain ⟨hne, _⟩ | ⟨_, hv, _⟩ | ⟨_, _, h⟩ := tick_cases s
      · exact absurd hs hne
      · omega
      · exact h
    have hdown : s.settle.countDown.value - 1 = n := by
      rw [SettleTimer.countDown_value (by omega)]
      omega
    have hsame : advance { s with settle := s.settle.countDown } = advance s := by
      rw [advance_settle hs, advance_settle (s := { s with settle := s.settle.countDown }) hs]
      rfl
    have hstep := step_tick (s := inWorld false (.tick :: (List.replicate (n + 1) .tick ++ rest)) reads s) (by simp [inWorld, hs])
      rfl rfl
    rw [show k + (n + 1 + 1) = (k + (n + 1)) + 1 from rfl, ← hsame]
    refine (run_of_step _ hstep).trans ?_
    rw [← ih (s := { s with settle := s.settle.countDown }) hs hdown, ← htick, ← tick_inWorld]
    rfl

/-- The events of a phase make the whole phase (R70, R75). -/
theorem run_phase (s : State) :
    Host.Core.run Sys2Proof.core (k + (phaseEvents s).length) (inWorld false (phaseEvents s ++ rest) reads s) =
      Host.Core.run Sys2Proof.core k (inWorld false rest reads (advance s)) := by
  unfold phaseEvents
  split
  · next hs => rw [advance_idle hs]; rfl
  · next hs =>
    rw [List.length_replicate]
    exact run_ticks k rest reads _ hs rfl
  · next hidle hsettle =>
    rw [advance_busy hsettle, ← primitiveReturn_inWorld]
    exact run_of_step k (step_ret (s := inWorld false (.ret :: rest) reads s) rfl rfl)

/-- The events of `n` phases make `n` phases. -/
theorem run_command (n : Nat) (s : State) :
    Host.Core.run Sys2Proof.core (k + (commandEvents n s).length) (inWorld false (commandEvents n s ++ rest) reads s) =
      Host.Core.run Sys2Proof.core k (inWorld false rest reads (advanceN n s)) := by
  induction n generalizing s with
  | zero => rfl
  | succ n ih =>
    rw [commandEvents, List.length_append, List.append_assoc, Nat.add_comm (phaseEvents s).length, ← Nat.add_assoc, run_phase,
      ih, advanceN_succ]

/-- With events, the CMD write of a command leaves its first primitive called (R15, R18). -/
theorem step_encoded (i : Instr) {s : State} (hs : s.seq = .idle) :
    step (inWorld false (.host (.write 0 (encode i)) :: rest) reads s) = .next (inWorld false rest reads (start i s)) := by
  rw [step_cmdWrite (s := inWorld false (.host (.write 0 (encode i)) :: rest) reads s) hs rfl, command_of_decode (decode_encode i),
    ← start_inWorld]
  exact exec_events i (s := inWorld false rest reads s) hs rfl

/-- Settles O33: the CMD write starts the command, and the events of its phases run it to the end the prompt environment reaches. -/
theorem oneStepCommandIsAnEventByEventRun : Obligations.OneStepCommandIsAnEventByEventRun := by
  unfold Obligations.OneStepCommandIsAnEventByEventRun
  intro s i rest ⟨hs, _⟩ hp
  have hprompt : exec i (inWorld true rest s.hostReads s) = .next (inWorld true rest s.hostReads (finish (start i s))) := by
    rw [exec_eq_proceed_start i (s := inWorld true rest s.hostReads s) hs, start_inWorld, proceed_prompt, finish_inWorld]
    rfl
  refine ⟨commandEvents longestCommand (start i s), _, fun e he => mem_commandEvents he, hprompt, ?_⟩
  have hworld (l : List Input) : { s with inputs := l } = inWorld false l s.hostReads s := by rw [inWorld, ← hp]
  have hrun := run_command 0 rest s.hostReads longestCommand (start i s)
  rw [Nat.zero_add] at hrun
  rw [hworld, run_of_step _ (step_encoded _ s.hostReads i hs), hrun]
  rfl

end Sys2Proof.Machine
end

section
/-! SUPPORT. The trace over a step: it goes on from the trace before it, and the rule of the repeated start goes on with it (R31, R40,
R116): O41, O45. -/

namespace Sys2Proof.Machine

variable {s t u : State}

/-! ## Lists of events and the rule of the repeated start -/

theorem endsInRestart_append_singleton (l : List Event) (e : Event) : endsInRestart (l ++ [e]) = (e == .endTx false) := by
  rw [endsInRestart, List.getLast?_concat]
  rfl

/-- One event more: the rule asks something of it only if the list before it ends in `EndTx(false)`. -/
theorem restartsUnbroken_append_singleton (l : List Event) (e : Event) :
    restartsUnbroken (l ++ [e]) = true ↔
      restartsUnbroken l = true ∧ (endsInRestart l = true → e = .requestRead 0x5A 3) := by
  induction l using restartsUnbroken.induct with
  | case1 => simp [restartsUnbroken, endsInRestart]
  | case2 x =>
    by_cases hx : x = .endTx false
    · simp [hx, restartsUnbroken, endsInRestart]
    · have hend : endsInRestart [x] = false := by simpa [endsInRestart] using hx
      simp [restartsUnbroken, hend]
  | case3 y rest ih =>
    have hend : endsInRestart (.endTx false :: y :: rest) = endsInRestart (y :: rest) := by simp [endsInRestart]
    simp only [List.cons_append, restartsUnbroken, hend] at ih ⊢
    simp [ih, and_assoc]
  | case4 x y rest hx ih =>
    have hend : endsInRestart (x :: y :: rest) = endsInRestart (y :: rest) := by simp [endsInRestart]
    simpa [restartsUnbroken, hx, hend] using ih

/-- The rule holds of the list, whatever event comes next: no `RequestRead` is owed. -/
def NoRestartPending (l : List Event) : Prop := restartsUnbroken l = true ∧ endsInRestart l = false

/-- `m` is `l` with events appended none of which is an `EndTx(false)`. -/
def ExtendsQuietly (l m : List Event) : Prop := ∃ events, m = l ++ events ∧ .endTx false ∉ events

theorem ExtendsQuietly.refl (l : List Event) : ExtendsQuietly l l := ⟨[], by simp⟩

theorem NoRestartPending.append_singleton {l : List Event} {e : Event} (hl : restartsUnbroken l = true)
    (hnext : endsInRestart l = true → e = .requestRead 0x5A 3) (he : e ≠ .endTx false) : NoRestartPending (l ++ [e]) := by
  refine ⟨(restartsUnbroken_append_singleton l e).2 ⟨hl, hnext⟩, ?_⟩
  rw [endsInRestart_append_singleton]
  simpa using he

theorem NoRestartPending.extend {l m : List Event} (hl : NoRestartPending l) (h : ExtendsQuietly l m) : NoRestartPending m := by
  obtain ⟨events, rfl, hquiet⟩ := h
  induction events generalizing l with
  | nil => simpa using hl
  | cons e rest ih =>
    obtain ⟨he, hrest⟩ := not_or.1 (mt List.mem_cons.2 hquiet)
    rw [List.append_cons]
    refine ih (.append_singleton hl.1 ?_ (Ne.symm he)) hrest
    simp [hl.2]

/-! ## The rule in a state -/

theorem RestartInv.noRestartPending (h : RestartInv s) (hs : s.seq ≠ .rdRestart) : NoRestartPending s.trace :=
  ⟨h.1, by simpa using mt h.2 hs⟩

theorem NoRestartPending.restartInv (h : NoRestartPending s.trace) : RestartInv s := ⟨h.1, by simp [h.2]⟩

/-- The call of a phase's primitive: only that of RD_RESTART leaves a `RequestRead` owed, and then it is the phase. -/
theorem NoRestartPending.enter (h : NoRestartPending s.trace) (p : Phase) : RestartInv (enter p s) := by
  by_cases hp : p = .rdRestart
  · subst hp
    refine ⟨(restartsUnbroken_append_singleton s.trace _).2 ⟨h.1, by simp [h.2]⟩, fun _ => rfl⟩
  · have hquiet : .endTx false ∉ callEvent p s := by cases p <;> simp_all [callEvent]
    exact NoRestartPending.restartInv (h.extend ⟨_, rfl, hquiet⟩)

/-- `t` goes on from `s` on the bus: its trace extends that of `s`, and the rule of the repeated start is kept. -/
structure GoesOn (s t : State) : Prop where
  grows : s.trace <+: t.trace
  keeps : RestartInv s → RestartInv t

theorem GoesOn.refl (s : State) : GoesOn s s := ⟨List.prefix_rfl, id⟩

theorem GoesOn.trans (h : GoesOn s t) (h' : GoesOn t u) : GoesOn s u := ⟨h.grows.trans h'.grows, h'.keeps ∘ h.keeps⟩

/-- Outside RD_RESTART, whatever appends no `EndTx(false)` goes on. -/
theorem GoesOn.of_quiet (hs : s.seq ≠ .rdRestart) (h : ExtendsQuietly s.trace t.trace) : GoesOn s t where
  grows := by
    obtain ⟨events, hm, _⟩ := h
    exact ⟨events, hm.symm⟩
  keeps hinv := NoRestartPending.restartInv ((hinv.noRestartPending hs).extend h)

/-! ## The phases (R15, R70, R73) -/

theorem pecCheck_trace (s : State) : (pecCheck s).trace = s.trace := by
  simp only [pecCheck]
  split <;> rfl

/-- A plain row enters its next phase, and behind RD_RESTART that phase is RD_REQ. -/
theorem enter_goesOn {p : Phase} (hp : plainNext s.seq = some p) : GoesOn s (enter p s) where
  grows := List.prefix_append _ _
  keeps hinv := by
    by_cases hs : s.seq = .rdRestart
    · obtain rfl : .rdReq = p := by simpa [hs, plainNext] using hp
      exact (NoRestartPending.append_singleton hinv.1 (fun _ => rfl) Event.noConfusion).restartInv
    · exact (hinv.noRestartPending hs).enter p

/-- The rows with an effect of their own append nothing but the byte a `ReadByte` returned. -/
theorem primitiveReturn_extendsQuietly (h : plainNext s.seq = none) : ExtendsQuietly s.trace (primitiveReturn s).trace := by
  obtain ⟨q, hq⟩ | hs | hs | hs | hs | hs | hs | hs := plainNext_cases s.seq
  · simp [hq] at h
  · rw [primitiveReturn_inSession hs]
    exact .refl _
  · rw [primitiveReturn_rdLo hs, takeLo_eq]
    exact ⟨[.readByte (rxAt s 0)], List.append_nil _, by simp⟩
  · rw [primitiveReturn_rdHi hs, takeHi_eq]
    exact ⟨[.readByte (rxAt s 0)], List.append_nil _, by simp⟩
  · rw [primitiveReturn_rdPec hs, pecCheck_trace, takePec_eq]
    exact ⟨[.readByte (rxAt s 0)], rfl, by simp⟩
  · rw [primitiveReturn_wrStop hs]
    split <;> exact .refl _
  · rw [primitiveReturn_idle hs]
    exact .refl _
  · rw [primitiveReturn_settle hs]
    exact .refl _

theorem primitiveReturn_goesOn (s : State) : GoesOn s (primitiveReturn s) := by
  cases h : plainNext s.seq with
  | some p =>
    rw [primitiveReturn_plain h]
    exact enter_goesOn h
  | none =>
    have hs : s.seq ≠ .rdRestart := fun hs => by simp [hs, plainNext] at h
    exact .of_quiet hs (primitiveReturn_extendsQuietly h)

/-- The end of a settle wait appends its `Delay`, and the `BeginTx` of the value frame if that comes next. -/
theorem settleDone_extendsQuietly (s : State) : ExtendsQuietly s.trace (settleDone s).trace := by
  unfold settleDone
  split
  · exact ⟨[.delay s.settle.ticks, .beginTx Config.devAddr], List.append_assoc _ _ _, by simp⟩
  · exact ⟨[.delay s.settle.ticks], rfl, by simp⟩

theorem tick_goesOn (s : State) : GoesOn s (tick s) := by
  obtain ⟨_, ht⟩ | ⟨hs, _, ht⟩ | ⟨hs, _, ht⟩ := tick_cases s
  · rw [ht]
    exact .refl s
  · rw [ht]
    exact .of_quiet (by simp [hs]) (settleDone_extendsQuietly { s with settle := s.settle.clear })
  · rw [ht]
    exact .of_quiet (by simp [hs]) (.refl _)

theorem advance_goesOn (s : State) : GoesOn s (advance s) := by
  by_cases hs : s.seq = .settle
  · rw [advance_settle hs]
    exact .of_quiet (by simp [hs]) (settleDone_extendsQuietly { s with settle := s.settle.clear })
  · rw [advance_busy hs]
    exact primitiveReturn_goesOn s

theorem advanceN_goesOn (n : Nat) (s : State) : GoesOn s (advanceN n s) := by
  induction n generalizing s with
  | zero => exact .refl s
  | succ n ih =>
    rw [advanceN_succ]
    exact (advance_goesOn s).trans (ih (advance s))

theorem finish_goesOn (s : State) : GoesOn s (finish s) := advanceN_goesOn _ s

/-! ## Commands and steps (R18, R42) -/

/-- A command that is taken appends at most the call of its first primitive, a `BeginSession` or a `BeginTx`. -/
theorem start_extendsQuietly (i : Instr) (s : State) : ExtendsQuietly s.trace (start i s).trace := by
  have hrefused : ExtendsQuietly s.trace (raise .invalidOp s).trace := .refl _
  cases i with
  | init => exact ⟨[.beginSession], rfl, by simp⟩
  | rdreg a =>
    simp only [start]
    split
    · exact ⟨[.beginTx Config.devAddr], rfl, by simp⟩
    · exact hrefused
  | wrreg a w =>
    simp only [start]
    split
    · exact ⟨[.beginTx Config.devAddr], rfl, by simp⟩
    · exact hrefused
  | eeupd a w =>
    simp only [start]
    split
    · exact ⟨[.beginTx Config.devAddr], rfl, by simp⟩
    · exact hrefused
  | crcclr => exact .refl _
  | crcbyte b => exact .refl _
  | crcbit d => exact .refl _

theorem proceed_goesOn (s : State) : GoesOn s (proceed s) := by
  unfold proceed
  split
  · exact finish_goesOn s
  · exact .refl s

theorem command_goesOn {c : Word} (hs : s.seq = .idle) (h : command c s = .next t) : GoesOn s t := by
  have hne : s.seq ≠ .rdRestart := by simp [hs]
  obtain ⟨i, _, hi⟩ | ⟨_, rfl⟩ := command_cases h
  · rw [exec_eq_proceed_start i hs] at hi
    obtain rfl := Host.Outcome.next.inj hi
    exact (GoesOn.of_quiet hne (start_extendsQuietly i s)).trans (proceed_goesOn _)
  · exact .of_quiet hne (.refl _)

/-- R31, R42, R116: a step goes on from the trace before it, unless it takes an `rst`. -/
theorem step_goesOn_or_rst (h : step s = .next t) :
    GoesOn s t ∨
      t.trace = [] ∧ ((s.seq = .idle ∧ s.inputs.head? = some .rst) ∨
        (s.seq ≠ .idle ∧ ∃ rest, takeEvent s.inputs = some (.rst, rest))) := by
  obtain ⟨hs, h⟩ | ⟨hs, h⟩ := step_cases h
  · have hne : s.seq ≠ .rdRestart := by simp [hs]
    obtain ⟨_, rfl⟩ | ⟨i, rest, hi, ⟨c, _, hc⟩ | ⟨_, _, _, _, rfl⟩ | ⟨_, _, rfl⟩ | ⟨_, rfl⟩ | ⟨rfl, rfl⟩⟩ := idleStep_cases h
    · exact .inl (.refl t)
    · obtain ⟨hgrows, hkeeps⟩ := command_goesOn (s := { s with inputs := rest }) hs hc
      exact .inl ⟨hgrows, hkeeps⟩
    · exact .inl (.of_quiet hne (.refl _))
    · exact .inl (.of_quiet hne (.refl _))
    · exact .inl (.of_quiet hne (.refl _))
    · exact .inr ⟨rfl, .inl ⟨hs, by rw [hi]; rfl⟩⟩
  · obtain ⟨_, rfl⟩ | ⟨_, i, rest, hi, rfl⟩ := busyStep_cases h
    · exact .inl (finish_goesOn s)
    · have htaken : GoesOn s { s with inputs := rest } := ⟨List.prefix_rfl, id⟩
      cases i with
      | host a => exact .inl htaken
      | ret => exact .inl (htaken.trans (primitiveReturn_goesOn _))
      | tick => exact .inl (htaken.trans (tick_goesOn _))
      | rst => exact .inr ⟨rfl, .inr ⟨hs, rest, hi⟩⟩

/-- Settles O45: a step that goes on keeps the rule, and after an `rst` the trace is empty. -/
theorem everyStepKeepsTheRestartRule : Obligations.EveryStepKeepsTheRestartRule := by
  unfold Obligations.EveryStepKeepsTheRestartRule
  intro s t hinv h
  obtain hgoes | ⟨hempty, _⟩ := step_goesOn_or_rst h
  · exact hgoes.keeps hinv
  · exact NoRestartPending.restartInv (by rw [hempty]; exact ⟨rfl, rfl⟩)

/-- Settles O41: the half of `GoesOn` that speaks of the trace alone. -/
theorem traceOnlyGrows : Obligations.TraceOnlyGrows := by
  unfold Obligations.TraceOnlyGrows
  intro s t h
  exact (step_goesOn_or_rst h).imp_left GoesOn.grows

end Sys2Proof.Machine
end

section
/-! SUPPORT. The register map and a well-behaved sensor over the frames of the block (R33, R38 to R41; environment assumption of log
entry 11): O25, O46, O47. -/

namespace Sys2Proof.Machine

/-! ## The register map (R33, R52) -/

theorem mem_regNames (r : RegName) : r ∈ regNames := by cases r <;> decide

theorem readableAddrs_eq_map : readableAddrs = regNames.map regAddr := rfl

theorem writableAddrs_eq_map : writableAddrs = (regNames.filter (regClass · = .eeprom)).map regAddr := rfl

theorem readable_iff (a : Byte) : readable a = true ↔ ∃ r, regAddr r = a := by
  rw [readable, List.contains_iff_mem, readableAddrs_eq_map, List.mem_map]
  simp [mem_regNames]

theorem writable_iff (a : Byte) : writable a = true ↔ ∃ r, regAddr r = a ∧ regClass r = .eeprom := by
  rw [writable, List.contains_iff_mem, writableAddrs_eq_map, List.mem_map]
  simp [mem_regNames, and_comm]

theorem regAddr_injective : Function.Injective regAddr := by
  have hnodup : (regNames.map regAddr).Nodup := by decide
  exact fun r q h => List.inj_on_of_nodup_map hnodup (mem_regNames r) (mem_regNames q) h

theorem readable_of_writable {a : Byte} (h : writable a = true) : readable a = true := by
  obtain ⟨r, hr, _⟩ := (writable_iff a).1 h
  exact (readable_iff a).2 ⟨r, hr⟩

/-- Settles O25: both lists of R52 are read off the map, whose addresses are distinct. -/
theorem admittedSetsAreTheMapsClasses : Obligations.AdmittedSetsAreTheMapsClasses := by
  unfold Obligations.AdmittedSetsAreTheMapsClasses
  exact ⟨readable_iff, writable_iff, regAddr_injective⟩

/-! ## A write frame and its settle wait (R39, R41) -/

variable {sn : Sensor} {a : Byte} {w : Half}

/-- What is known once a write of `w` at `a` has been accepted and has settled. -/
def Sensor.holding (sn : Sensor) (a : Byte) (w : Half) : Sensor :=
  { sn with reading := none, known := learn a.toNat w sn.known }

theorem txn_pointer_of_busFree (h : busFree sn = true) : sn.txn = none ∧ sn.pointer = none := by
  simp only [busFree, Bool.and_eq_true, Option.isNone_iff_eq_none] at h
  exact h.1

theorem Sensor.InService.holding (h : sn.InService) (a : Byte) (w : Half) : (sn.holding a w).InService := by
  obtain ⟨hstarted, hfree, hanswers⟩ := h
  obtain ⟨htxn, hpointer⟩ := txn_pointer_of_busFree hfree
  exact ⟨hstarted, by simp [busFree, Sensor.holding, htxn, hpointer], hanswers⟩

theorem wordAt_holding_same (sn : Sensor) (a : Byte) (w : Half) : wordAt (sn.holding a w).known a.toNat = some w :=
  wordAt_learn_same _ _ _

theorem wordAt_holding_other {b : Byte} (sn : Sensor) (w : Half) (h : b ≠ a) :
    wordAt (sn.holding a w).known b.toNat = wordAt sn.known b.toNat :=
  wordAt_learn_other _ _ (mt BitVec.eq_of_toNat_eq h)

/-- A write of the erase value, or to an erased register, is known to be held (R41). -/
theorem sensorWrite_learns (ha : writable a = true) (hlsb : a ≠ 0x2E)
    (hw : w = Config.eraseValue ∨ wordAt sn.known a.toNat = some Config.eraseValue) :
    sensorWrite sn a w = { sn with known := learn a.toNat w sn.known, settled := false } := by
  rw [sensorWrite, if_pos ⟨ha, hlsb⟩, if_pos hw]

/-- A transaction in progress, the bytes `sent` written. -/
def Sensor.sending (sn : Sensor) (sent : List Byte) : Sensor := { sn with txn := some sent, reading := none }

/-- A sensor in service takes the start of a transaction. -/
theorem observe_beginTx (h : sn.InService) : observe sn (.beginTx Config.devAddr) = sn.sending [] := by
  obtain ⟨hstarted, hfree, _⟩ := h
  exact if_pos ⟨hstarted, hfree, rfl⟩

/-- A frame with the right PEC is accepted (R39). -/
theorem sensorFrame_accepts (htxn : sn.txn = some [a, lo w, hi w, writePec a w]) (h : answers sn = true) :
    sensorFrame sn = sensorWrite sn a w := by
  simp [sensorFrame, htxn, h]

/-- A write frame of the block is accepted, as its PEC is right (R35, R39). -/
theorem observeAll_writeEvents (h : sn.InService) (a : Byte) (w : Half) :
    observeAll sn (writeEvents a w) =
      { sensorWrite (sn.sending [a, lo w, hi w, writePec a w]) a w with txn := none } := by
  have ⟨_, _, hanswers⟩ := h
  have hframe : sensorFrame (sn.sending [a, lo w, hi w, writePec a w]) = sensorWrite (sn.sending _) a w :=
    sensorFrame_accepts rfl hanswers
  rw [← hframe, writeEvents, ← writePec_eq, observeAll, List.foldl_cons]
  exact congrArg (fun opened => observeAll opened _) (observe_beginTx h)

/-- A write frame and the settle wait behind it, where the word is known to be held. -/
theorem observeAll_write_settle (h : sn.InService) (ha : writable a = true) (hlsb : a ≠ 0x2E)
    (hw : w = Config.eraseValue ∨ wordAt sn.known a.toNat = some Config.eraseValue) (n : Nat) :
    observeAll sn (writeEvents a w ++ [.delay n]) = sn.holding a w := by
  have ⟨_, hfree, hanswers⟩ := h
  obtain ⟨htxn, hpointer⟩ := txn_pointer_of_busFree hfree
  have hsettled : sn.settled = true := (Bool.and_eq_true_iff.1 hanswers).1
  rw [observeAll_append, observeAll_writeEvents h, sensorWrite_learns (sn := sn.sending _) ha hlsb hw]
  simp [observeAll, observe, sensorDelay, busFree, Sensor.sending, Sensor.holding, htxn, hpointer, hsettled]

/-- R76: over an EEUPD the register is erased, and so known to hold the value. -/
theorem observeAll_updateEvents (h : sn.InService) (ha : writable a = true) (hlsb : a ≠ 0x2E) (w : Half) (n : Nat) :
    observeAll sn (updateEvents a w n) = (sn.holding a Config.eraseValue).holding a w := by
  rw [updateEvents, List.append_assoc, observeAll_append]
  rw [show (0x0000 : Half) = Config.eraseValue from rfl, observeAll_write_settle h ha hlsb (.inl rfl)]
  exact observeAll_write_settle (h.holding a _) ha hlsb (.inr (wordAt_holding_same sn a _)) n

/-- Settles O46: the events are those of `updateEvents`, and the sensor has learnt the word last. -/
theorem sensorHoldsTheUpdatedWord : Obligations.SensorHoldsTheUpdatedWord := by
  unfold Obligations.SensorHoldsTheUpdatedWord
  intro s t a w sn _ hp ha hlsb hsn ht
  rw [exec_eeupd_writable w hp ha] at ht
  obtain rfl := Host.Outcome.next.inj ht
  refine ⟨updateEvents a w s.settle.ticks, rfl, ?_⟩
  rw [observeAll_updateEvents hsn ha hlsb]
  refine ⟨wordAt_holding_same _ a w, fun b hb => ?_, (hsn.holding a _).holding a w⟩
  rw [wordAt_holding_other _ w hb, wordAt_holding_other sn _ hb]

/-! ## The read-back (R38, R123) -/

theorem allowsTrace_append (cover : Byte → Byte → Byte → Byte) (sn : Sensor) (l m : List Event) :
    allowsTrace cover sn (l ++ m) = (allowsTrace cover sn l && allowsTrace cover (observeAll sn l) m) := by
  induction l generalizing sn with
  | nil => rfl
  | cons e rest ih =>
    rw [List.cons_append, allowsTrace, allowsTrace, ih, Bool.and_assoc]
    rfl

/-- A read of register `a` in progress, the bytes `got` delivered. -/
def Sensor.delivering (sn : Sensor) (a : Byte) (got : List Byte) : Sensor :=
  { sn with txn := none, pointer := none, reading := some (a, got) }

/-- The address phase and the read request behind it start a read (R34, R40). -/
theorem allowsTrace_readEvents (cover : Byte → Byte → Byte → Byte) (h : sn.InService) (a b0 b1 b2 : Byte) :
    allowsTrace cover sn (readEvents a b0 b1 b2) =
      (mayDeliver cover (sn.delivering a []) b0 && (mayDeliver cover (sn.delivering a [b0]) b1 &&
        (mayDeliver cover (sn.delivering a [b0, b1]) b2 && true))) :=
  (congrArg (fun opened => allowsTrace cover opened
    [.writeByte a, .endTx false, .requestRead 0x5A 3, .readByte b0, .readByte b1, .readByte b2]) (observe_beginTx h) :)

/-- Of a known word a sensor in service delivers the low byte, the high byte and its PEC (R38). -/
theorem bytes_of_allowsTrace_readEvents {cover : Byte → Byte → Byte → Byte} {b0 b1 b2 : Byte} (h : sn.InService)
    (hword : wordAt sn.known a.toNat = some w) (hallows : allowsTrace cover sn (readEvents a b0 b1 b2) = true) :
    b0 = lo w ∧ b1 = hi w ∧ b2 = cover a b0 b1 := by
  have ⟨_, _, hanswers⟩ := h
  have hdelivering (got : List Byte) : answers (sn.delivering a got) = true := hanswers
  have hknown (got : List Byte) : wordAt (sn.delivering a got).known a.toNat = some w := hword
  have hreading (got : List Byte) : (sn.delivering a got).reading = some (a, got) := rfl
  rw [allowsTrace_readEvents cover h] at hallows
  simpa [mayDeliver, hdelivering, hknown, hreading] using hallows

/-- R123: the bytes of a RDREG behind an EEUPD of the same register. -/
theorem bytes_of_allowsTrace_update_read {cover : Byte → Byte → Byte → Byte} {b0 b1 b2 : Byte} {n : Nat} (h : sn.InService)
    (ha : writable a = true) (hlsb : a ≠ 0x2E)
    (hallows : allowsTrace cover sn (updateEvents a w n ++ readEvents a b0 b1 b2) = true) :
    b0 = lo w ∧ b1 = hi w ∧ b2 = cover a b0 b1 := by
  rw [allowsTrace_append, observeAll_updateEvents h ha hlsb, Bool.and_eq_true] at hallows
  exact bytes_of_allowsTrace_readEvents ((h.holding a _).holding a w) (wordAt_holding_same _ a w) hallows.2

/-- What a completed RDREG leaves of its three bytes, and that a right PEC is no error under either PEC_ENFORCE (R67, R69). -/
theorem exec_rdreg_result {t u : State} (hp : t.prompt = true) (he : t.ee = .idle) (ha : readable a = true)
    (hu : exec (.rdreg a) t = .next u) :
    u.trace = t.trace ++ readEvents a (rxAt t 0) (rxAt t 1) (rxAt t 2) ∧
    u.rdata = joinWord (rxAt t 0) (rxAt t 1) ∧
    (rxAt t 2 = crc8 [0xB5, a, rxAt t 0, rxAt t 1] → u.pecerr = false ∧ u.rvalid = true ∧ u.err = 0) := by
  rw [exec_rdreg_readable hp ha, pecCheck_eq (s := frameRead a t) rfl he] at hu
  obtain rfl := Host.Outcome.next.inj hu
  refine ⟨rfl, rfl, fun hpec => ?_⟩
  simp [frameRead, hpec]

/-- Settles O47: the three bytes are those of the word written, and the check compares the third with the PEC of the other two. -/
theorem readBackGivesTheUpdatedWord : Obligations.ReadBackGivesTheUpdatedWord := by
  unfold Obligations.ReadBackGivesTheUpdatedWord
  intro s t u a w sn cover _ hp ha hlsb hsn ht hu hallows
  rw [exec_eeupd_writable w hp ha] at ht
  obtain rfl := Host.Outcome.next.inj ht
  obtain ⟨htrace, hrdata, hpec⟩ := exec_rdreg_result (by exact hp) rfl (readable_of_writable ha) hu
  obtain ⟨h0, h1, h2⟩ :=
    bytes_of_allowsTrace_update_read hsn ha hlsb (hallows _ (htrace.trans (List.append_assoc _ _ _)))
  refine ⟨?_, fun hcover => hpec (h2.trans (hcover _ _))⟩
  rw [hrdata, h0, h1, joinWord_lo_hi]

end Sys2Proof.Machine
end

section
/-! SUPPORT. The encoding (R46, R47): a word that decodes is the encoding of what it decodes to, and each of R47's patterns says what
the fields of a word are: O1 to O4. -/

namespace Sys2Proof.Laws

variable {c : Word} {i j : Instr}

/-! ## A word by its fields (R46) -/

theorem cmdWord_eq_of_fields {op : BitVec 4} {a : Byte} {w : Half} (hz : fieldZ c = 0) (hop : fieldOp c = op)
    (ha : fieldA c = a) (hw : fieldW c = w) : cmdWord op a w = c := by
  rw [← hop, ← ha, ← hw, word_eq_fields c hz]

/-- The field `W` of a CRCBIT carries its bit alone (R46, R48). -/
theorem eq_bitWord_of_upper_zero {w : Half} (h : w.extractLsb' 1 15 = 0) : w = bif w.getLsbD 0 then 1 else 0 := by
  have hupper : w.toNat / 2 % 32768 = 0 := by simpa [Nat.shiftRight_one] using congrArg BitVec.toNat h
  have hw : w.toNat = 0 ∨ w.toNat = 1 := by omega
  rcases hw with h0 | h1
  · obtain rfl : w = 0 := BitVec.eq_of_toNat_eq h0
    rfl
  · obtain rfl : w = 1 := BitVec.eq_of_toNat_eq h1
    rfl

/-! ## Decoding and encoding are inverse (R46, R47) -/

theorem encode_of_checked {a w : Bool} (h : checked a w i = .ok j) (he : a = false → w = false → encode i = c) : encode j = c := by
  obtain ⟨ha, hw, rfl⟩ := checked_ok_iff.1 h
  exact he ha hw

/-- In every branch of the decoder, in its order, the fields are those the encoder writes. -/
theorem encode_of_decode (h : decode c = .ok i) : encode i = c := by
  unfold decode at h
  split at h
  · cases h
  next hz =>
  have hZ : fieldZ c = 0 := not_ne_iff.1 hz
  repeat' split at h
  next hop => exact encode_of_checked h fun ha hw => cmdWord_eq_of_fields hZ hop (by simpa using ha) (by simpa using hw)
  next hop => exact encode_of_checked h fun _ hw => cmdWord_eq_of_fields hZ hop rfl (by simpa using hw)
  next hop => exact Except.ok.inj h ▸ cmdWord_eq_of_fields hZ hop rfl rfl
  next hop => exact Except.ok.inj h ▸ cmdWord_eq_of_fields hZ hop rfl rfl
  next hop => exact encode_of_checked h fun ha hw => cmdWord_eq_of_fields hZ hop (by simpa using ha) (by simpa using hw)
  next hop => exact encode_of_checked h fun _ hw => cmdWord_eq_of_fields hZ hop rfl (by simpa using hw)
  next hop =>
    exact encode_of_checked h fun ha hw =>
      cmdWord_eq_of_fields hZ hop (by simpa using ha) (eq_bitWord_of_upper_zero (by simpa using hw))
  · cases h

theorem decode_eq_ok_iff : decode c = .ok i ↔ encode i = c :=
  ⟨encode_of_decode, fun h => h ▸ decode_encode i⟩

/-- Settles O1: the decoder finds the fields the encoder wrote, command by command. -/
theorem decodeOfEncodeIsTheInstruction : Obligations.DecodeOfEncodeIsTheInstruction := by
  unfold Obligations.DecodeOfEncodeIsTheInstruction
  exact decode_encode

/-- Settles O2: a word is its fields, and each field is an operand or checked to be 0. -/
theorem encodeOfDecodeIsTheWord : Obligations.EncodeOfDecodeIsTheWord := by
  unfold Obligations.EncodeOfDecodeIsTheWord
  exact fun _ _ => encode_of_decode

/-! ## The patterns (R47) -/

theorem row_selects_encode (i : Instr) : i.row.selects (encode i) = true := by
  cases i with
  | init => exact RowMatch.init
  | rdreg a => exact RowMatch.rdreg a
  | wrreg a w => exact RowMatch.wrreg a w
  | eeupd a w => exact RowMatch.eeupd a w
  | crcclr => exact RowMatch.crcclr
  | crcbyte b => exact RowMatch.crcbyte b
  | crcbit d => exact RowMatch.crcbit d

theorem and_mask_of_decode (h : decode c = .ok i) : c &&& i.row.mask = i.row.value := by
  rw [← encode_of_decode h]
  exact beq_iff_eq.1 (row_selects_encode i)

theorem eq_of_and_ones {n : Nat} {x m v : BitVec n} (hm : m = BitVec.allOnes n) (h : x &&& m = v) : x = v := by
  rw [← h, hm, BitVec.and_allOnes]

/-- The low bit of `W`, which the pattern of CRCBIT leaves out, is all of it. -/
theorem eq_bitWord_of_and_zero {w : Half} (h : w &&& 0xFFFE = 0) : w = bif w.getLsbD 0 then 1 else 0 := by
  have hupper := congrArg (BitVec.extractLsb' 1 15) h
  rw [BitVec.extractLsb'_and] at hupper
  exact eq_bitWord_of_upper_zero (eq_of_and_ones (by decide) hupper)

/-- A mask acts on each field by itself: a pattern that keeps all of `OP` and `Z` fixes them, and of `A` and `W` the hypotheses say
what it fixes (R46, R47). -/
theorem decode_of_pattern {m v : Word} {op : BitVec 4} {a : Byte} {w : Half} (h : c &&& m = v) (hi : encode i = cmdWord op a w)
    (hm : fieldOp m = BitVec.allOnes 4 ∧ fieldZ m = BitVec.allOnes 4) (hv : fieldOp v = op ∧ fieldZ v = 0)
    (ha : fieldA c &&& fieldA m = fieldA v → fieldA c = a) (hw : fieldW c &&& fieldW m = fieldW v → fieldW c = w) :
    decode c = .ok i := by
  subst h
  have hand (start len : Nat) : c.extractLsb' start len &&& m.extractLsb' start len = (c &&& m).extractLsb' start len :=
    BitVec.extractLsb'_and.symm
  have hop : fieldOp c = op := (eq_of_and_ones hm.1 (hand 28 4)).trans hv.1
  have hz : fieldZ c = 0 := (eq_of_and_ones hm.2 (hand 24 4)).trans hv.2
  exact decode_eq_ok_iff.2 (hi.trans (cmdWord_eq_of_fields hz hop (ha (hand 16 8)) (hw (hand 0 16))))

/-- Two patterns that select one word agree on the bits that both masks keep. -/
theorem selects_agree {r q : PatternRow} (hr : r.selects c = true) (hq : q.selects c = true) : r.value &&& q.mask = q.value &&& r.mask := by
  rw [← beq_iff_eq.1 hr, ← beq_iff_eq.1 hq, BitVec.and_assoc, BitVec.and_assoc, BitVec.and_comm r.mask]

/-- Settles O3: a decoded word is an encoded one, which its row selects; a selected word has the fields of the command. -/
theorem decoderSelectsByThePatterns : Obligations.DecoderSelectsByThePatterns := by
  unfold Obligations.DecoderSelectsByThePatterns
  intro c
  refine ⟨?_, ?_, ?_, ?_, ?_, ?_, ?_, ?_⟩
  · exact ⟨and_mask_of_decode,
      fun h => decode_of_pattern h rfl (by decide) (by decide) (eq_of_and_ones (by decide)) (eq_of_and_ones (by decide))⟩
  · exact ⟨fun ⟨_, h⟩ => and_mask_of_decode h,
      fun h => ⟨fieldA c, decode_of_pattern h rfl (by decide) (by decide) (fun _ => rfl) (eq_of_and_ones (by decide))⟩⟩
  · exact ⟨fun ⟨_, _, h⟩ => and_mask_of_decode h,
      fun h => ⟨fieldA c, fieldW c, decode_of_pattern h rfl (by decide) (by decide) (fun _ => rfl) (fun _ => rfl)⟩⟩
  · exact ⟨fun ⟨_, _, h⟩ => and_mask_of_decode h,
      fun h => ⟨fieldA c, fieldW c, decode_of_pattern h rfl (by decide) (by decide) (fun _ => rfl) (fun _ => rfl)⟩⟩
  · exact ⟨and_mask_of_decode,
      fun h => decode_of_pattern h rfl (by decide) (by decide) (eq_of_and_ones (by decide)) (eq_of_and_ones (by decide))⟩
  · exact ⟨fun ⟨_, h⟩ => and_mask_of_decode h,
      fun h => ⟨fieldA c, decode_of_pattern h rfl (by decide) (by decide) (fun _ => rfl) (eq_of_and_ones (by decide))⟩⟩
  · exact ⟨fun ⟨_, h⟩ => and_mask_of_decode h,
      fun h => ⟨(fieldW c).getLsbD 0,
        decode_of_pattern h rfl (by decide) (by decide) (eq_of_and_ones (by decide)) eq_bitWord_of_and_zero⟩⟩
  · have hdisjoint : ∀ r ∈ patternRows, ∀ q ∈ patternRows, r.value &&& q.mask = q.value &&& r.mask → r = q := by decide
    exact fun r hr q hq hrc hqc => hdisjoint r hr q hq (selects_agree hrc hqc)

/-- Settles O4: each word is one command's encoding, bit for bit; the all-zero word has an `OP` of no command, the all-ones word a
`Z` that is not 0. -/
theorem writtenOutWordsDecode : Obligations.WrittenOutWordsDecode := by
  unfold Obligations.WrittenOutWordsDecode
  simp only [decode_eq_ok_iff]
  decide

end Sys2Proof.Laws
end

section
/-! SUPPORT. What an accessor's expansion runs, and the words a line of text stands for (R53, R54): O24 and O50. -/

namespace Sys2Proof.Machine

/-! ## Expansions of one command (R54) -/

theorem execAll_singleton (i : Instr) (s : State) : execAll [i] s = exec i s := by
  unfold execAll
  cases exec i s <;> rfl

/-- Settles O24: each expansion is one command, at the address the register map gives. -/
theorem accessorsAreTheirCommands : Obligations.AccessorsAreTheirCommands := by
  unfold Obligations.AccessorsAreTheirCommands
  intro s w
  exact ⟨execAll_singleton _ s, execAll_singleton _ s, execAll_singleton _ s, execAll_singleton _ s⟩

/-! ## Lines by the widths of their operands (R53) -/

theorem lineB_eq (f : Byte → Instr) (v : Nat) :
    lineB f v = if v < 256 then .ok [encode (f (BitVec.ofNat 8 v))] else .error .doesNotFit := by
  by_cases h : v < 256 <;> simp [lineB, fit, h]

theorem lineAW_eq (f : Byte → Half → Instr) (v w : Nat) :
    lineAW f v w = if v < 256 ∧ w < 65536 then .ok [encode (f (BitVec.ofNat 8 v) (BitVec.ofNat 16 w))] else .error .doesNotFit := by
  by_cases hv : v < 256 <;> by_cases hw : w < 65536 <;> simp [lineAW, fit, hv, hw]

theorem assemble_word_eq (v : Nat) :
    assemble (.word v) = if v < 2 ^ 32 then .ok [BitVec.ofNat 32 v] else .error .doesNotFit := by
  by_cases h : v < 2 ^ 32 <;> simp only [assemble, fit, h, if_true, if_false]

theorem assemble_crcbit_eq (v : Nat) :
    assemble (.crcbit v) =
      if v = 0 then .ok [encode (.crcbit false)] else if v = 1 then .ok [encode (.crcbit true)] else .error .doesNotFit := by
  match v with
  | 0 => rfl
  | 1 => rfl
  | n + 2 => simp [assemble]

/-- Settles O50: every operand goes through `fit`, whose error is the line's. -/
theorem assemblyChecksEveryWidth : Obligations.AssemblyChecksEveryWidth := by
  unfold Obligations.AssemblyChecksEveryWidth
  intro v w
  exact ⟨lineB_eq _ v, lineAW_eq _ v w, lineAW_eq _ v w, lineB_eq _ v, assemble_crcbit_eq v, assemble_word_eq v, rfl, rfl⟩

end Sys2Proof.Machine
end

section
/-! SUPPORT. The CRC-8 generator as a linear map over GF(2) (R55 to R57), and what R61 and R62 draw from that: O9 to O14. -/

namespace Sys2Proof.Machine

/-! ## The bit step (R55) -/

/-- What a bit step XORs into the shifted checksum: POLY if the top bit differs from the payload bit (R55). -/
def feedback (t : Bool) : Byte := if t = true then Config.poly else 0

theorem crcBit_eq_xor_feedback (c : Byte) (d : Bool) : crcBit c d = shiftLeft1 c ^^^ feedback (c.getLsbD 7 ^^ d) := by
  unfold crcBit feedback
  split <;> simp

theorem feedback_xor (t u : Bool) : feedback (t ^^ u) = feedback t ^^^ feedback u := by revert t u; decide

theorem shiftLeft1_xor (c c' : Byte) : shiftLeft1 (c ^^^ c') = shiftLeft1 c ^^^ shiftLeft1 c' := BitVec.shiftLeft_xor_distrib c c' 1

theorem shiftLeft1_toNat (c : Byte) : (shiftLeft1 c).toNat = 2 * c.toNat % 256 := by
  simp [shiftLeft1, Nat.shiftLeft_eq, Nat.mul_comm]

/-- The bit step is linear: the shift is, and so is the feedback (R55). -/
theorem crcBit_xor (c c' : Byte) (d d' : Bool) : crcBit (c ^^^ c') (d ^^ d') = crcBit c d ^^^ crcBit c' d' := by
  have htop : ((c ^^^ c').getLsbD 7 ^^ (d ^^ d')) = ((c.getLsbD 7 ^^ d) ^^ (c'.getLsbD 7 ^^ d')) := by
    simp only [BitVec.getLsbD_xor, Bool.xor_assoc, Bool.xor_left_comm d]
  simp only [crcBit_eq_xor_feedback, htop, shiftLeft1_xor, feedback_xor]
  ac_rfl

/-- Settles O9: bit 7 of a byte says whether the number is at least 128, and the shift drops it. -/
theorem bitStepShiftsAndFeedsBack : Obligations.BitStepShiftsAndFeedsBack := by
  unfold Obligations.BitStepShiftsAndFeedsBack
  intro c d
  have htop : c.getLsbD 7 = decide (128 ≤ c.toNat) := (BitVec.msb_eq_getLsbD_last c).symm.trans (BitVec.msb_eq_decide c)
  rw [crcBit, htop]
  split
  · rw [BitVec.toNat_xor, shiftLeft1_toNat]
    rfl
  · exact shiftLeft1_toNat c

/-! ## The byte step (R56, R61) -/

theorem crcByte_xor (c c' b b' : Byte) : crcByte (c ^^^ c') (b ^^^ b') = crcByte c b ^^^ crcByte c' b' := by
  simp only [crcByte, BitVec.getLsbD_xor, crcBit_xor]

/-- A payload bit equal to the top bit feeds nothing back, so the bits of `c` are shifted out one by one (R61(c)). -/
theorem crcBit_shifted (c : Byte) (k : Nat) (h : k < 8) : crcBit (c <<< k) (c.getLsbD (7 - k)) = c <<< (k + 1) := by
  have htop : (c <<< k).getLsbD 7 = c.getLsbD (7 - k) := by
    rw [BitVec.getLsbD_shiftLeft, decide_eq_true (by decide), decide_eq_false (by omega)]
    rfl
  rw [crcBit, htop, Bool.xor_self, if_neg Bool.false_ne_true, shiftLeft1, BitVec.shiftLeft_add]

theorem crcByte_self (c : Byte) : crcByte c c = 0 := by
  have hfirst : crcBit c (c.getLsbD 7) = c <<< 1 := by simpa using crcBit_shifted c 0 (by decide)
  rw [crcByte, hfirst, crcBit_shifted c 1 (by decide), crcBit_shifted c 2 (by decide), crcBit_shifted c 3 (by decide),
    crcBit_shifted c 4 (by decide), crcBit_shifted c 5 (by decide), crcBit_shifted c 6 (by decide), crcBit_shifted c 7 (by decide)]
  exact BitVec.shiftLeft_eq_zero (by decide)

theorem shiftStep_eq_crcBit (v : Byte) : shiftStep v = crcBit v false := by rw [shiftStep, crcBit, Bool.xor_false]

theorem shiftStep_xor (v w : Byte) : shiftStep (v ^^^ w) = shiftStep v ^^^ shiftStep w := by
  simp only [shiftStep_eq_crcBit]
  exact crcBit_xor v w false false

theorem shift8_eq_crcByte (v : Byte) : shift8 v = crcByte v 0 := by
  simp only [shift8, shiftStep_eq_crcBit]
  rfl

/-- The XOR-first form: `(c, b)` differs from `(c ^ b, 0)` by `(b, b)`, which leaves 0 (R61(a)). -/
theorem crcByte_eq_shift8 (c b : Byte) : crcByte c b = shift8 (c ^^^ b) := by
  calc crcByte c b
    _ = crcByte ((c ^^^ b) ^^^ b) (0 ^^^ b) := by simp
    _ = crcByte (c ^^^ b) 0 ^^^ crcByte b b := crcByte_xor ..
    _ = shift8 (c ^^^ b) := by simp [crcByte_self, shift8_eq_crcByte]

theorem crcTable_eq_shift8 (v : Byte) : crcTable[v.toNat]? = some (shift8 v) := by revert v; decide

/-- The feedback constant has constant term 1, so no byte but 0 is shifted to 0 (R62(d)). -/
theorem shiftStep_eq_zero {v : Byte} (h : shiftStep v = 0) : v = 0 := by revert v; decide

theorem shiftStep_injective : Function.Injective shiftStep := by
  intro v w h
  have hzero : shiftStep (v ^^^ w) = 0 := by
    rw [shiftStep_xor, h]
    exact BitVec.xor_self
  exact BitVec.xor_eq_zero_iff.1 (shiftStep_eq_zero hzero)

theorem shift8_injective : Function.Injective shift8 := shiftStep_injective.iterate 8

theorem crcByte_injective_byte (c : Byte) : Function.Injective (fun b => crcByte c b) := by
  intro b b' h
  simp only [crcByte_eq_shift8] at h
  exact (BitVec.xor_right_inj c).1 (shift8_injective h)

theorem crcByte_injective_checksum (b : Byte) : Function.Injective (fun c => crcByte c b) := by
  intro c c' h
  simp only [crcByte_eq_shift8] at h
  exact (BitVec.xor_left_inj b).1 (shift8_injective h)

theorem bijective_of_injective_byte {f : Byte → Byte} (h : Function.Injective f) : Function.Bijective f :=
  have : Finite Byte := .of_equiv _ BitVec.equivFin.symm.toEquiv
  Finite.injective_iff_bijective.1 h

/-- Settles O10: all of R61 follows from the XOR-first form, whose eight steps are injective. -/
theorem byteStepHasTheEquivalentForms : Obligations.ByteStepHasTheEquivalentForms := by
  unfold Obligations.ByteStepHasTheEquivalentForms
  refine ⟨crcByte_eq_shift8, fun c b => ?_, fun v => ?_, crcByte_self, fun c b c' b' h => ?_, fun c => ?_, fun b => ?_⟩
  · rw [crcTable_eq_shift8, crcByte_eq_shift8]
  · rw [crcTable_eq_shift8, crcByte_eq_shift8, BitVec.ofNat_eq_ofNat, BitVec.zero_xor]
  · rw [crcByte_eq_shift8, h, ← crcByte_eq_shift8]
  · exact bijective_of_injective_byte (crcByte_injective_byte c)
  · exact bijective_of_injective_byte (crcByte_injective_checksum b)

/-! ## Messages (R57, R62) -/

theorem crcBytes_cons (c b : Byte) (m : List Byte) : crcBytes c (b :: m) = crcBytes (crcByte c b) m := rfl

theorem crc8_append_singleton (m : List Byte) (p : Byte) : crc8 (m ++ [p]) = crcByte (crc8 m) p := List.foldl_concat ..

theorem crcBytes_xor : ∀ {m1 m2 : List Byte}, m1.length = m2.length → ∀ c1 c2 : Byte,
    crcBytes (c1 ^^^ c2) (xorBytes m1 m2) = crcBytes c1 m1 ^^^ crcBytes c2 m2
  | [], [], _, _, _ => rfl
  | b1 :: m1, b2 :: m2, h, c1, c2 => by
    have hrest := crcBytes_xor (Nat.succ.inj h) (crcByte c1 b1) (crcByte c2 b2)
    rwa [← crcByte_xor] at hrest

/-- Settles O11: the byte step is linear, and CRC_INIT is 0. -/
theorem crc8IsLinear : Obligations.Crc8IsLinear := by
  unfold Obligations.Crc8IsLinear
  exact fun _ _ h => crcBytes_xor h 0 0

/-- Settles O12: a zero byte leaves the checksum 0 as it is; a last byte leaves 0 exactly if it is the checksum, for the byte step
is injective. -/
theorem crc8LeadingZerosAndResidue : Obligations.Crc8LeadingZerosAndResidue := by
  unfold Obligations.Crc8LeadingZerosAndResidue
  have hresidue (m : List Byte) : crc8 (m ++ [crc8 m]) = 0 := (crc8_append_singleton m _).trans (crcByte_self _)
  refine ⟨fun m => ?_, hresidue, fun m p => ⟨fun h => ?_, fun h => h ▸ hresidue m⟩⟩
  · exact congrArg (crcBytes · m) (crcByte_self 0)
  · apply crcByte_injective_byte (crc8 m)
    exact (crc8_append_singleton m p).symm.trans (h.trans (crcByte_self (crc8 m)).symm)

/-! ## Single-bit errors (R62(d)) -/

theorem crcBytes_injective (m : List Byte) : Function.Injective (fun c => crcBytes c m) := by
  induction m with
  | nil => exact Function.injective_id
  | cons b m ih => exact ih.comp (crcByte_injective_checksum b)

theorem flipped_byte_ne (b : Byte) {j : Nat} (h : j < 8) : b ^^^ BitVec.twoPow 8 j ≠ b := by
  intro hb
  have hbit := congrArg (BitVec.getLsbD · j) hb
  simp [h] at hbit

theorem crcBytes_flipBit_ne {j : Nat} (hj : j < 8) {m : List Byte} {k : Nat} (hk : k < m.length) (c : Byte) :
    crcBytes c (flipBit m k j) ≠ crcBytes c m := by
  induction m generalizing k c with
  | nil => exact absurd hk (Nat.not_lt_zero k)
  | cons b m ih =>
    cases k with
    | zero => exact fun h => flipped_byte_ne b hj (crcByte_injective_byte c (crcBytes_injective m h))
    | succ k => exact ih (Nat.lt_of_succ_lt_succ hk) (crcByte c b)

/-- Settles O13: the flipped byte gives another running checksum, and every byte after it keeps the two apart. -/
theorem crc8DetectsEverySingleBitFlip : Obligations.Crc8DetectsEverySingleBitFlip := by
  unfold Obligations.Crc8DetectsEverySingleBitFlip
  exact fun _ _ _ hk hj => crcBytes_flipBit_ne hj hk Config.crcInit

/-! ## Odd error patterns (R62(e)) -/

/-- The number of 1 bits of a byte. -/
def oneBits (b : Byte) : Nat := ((List.range 8).filter b.getLsbD).length

theorem oneBits_xor (a b : Byte) : oneBits (a ^^^ b) % 2 = (oneBits a + oneBits b) % 2 := by
  unfold oneBits
  induction List.range 8 with
  | nil => rfl
  | cons k l ih =>
    cases ha : a.getLsbD k <;> cases hb : b.getLsbD k <;> simp [ha, hb] <;> omega

/-- The polynomial has the factor x+1, so a step of `Shift8` keeps the parity (R62(e)). -/
theorem oneBits_shiftStep (v : Byte) : oneBits (shiftStep v) % 2 = oneBits v % 2 := by revert v; decide

theorem oneBits_crcByte (c b : Byte) : oneBits (crcByte c b) % 2 = (oneBits c + oneBits b) % 2 := by
  simp only [crcByte_eq_shift8, shift8, oneBits_shiftStep, oneBits_xor]

theorem oneBits_crcBytes (m : List Byte) (c : Byte) : oneBits (crcBytes c m) % 2 = (oneBits c + (m.map oneBits).sum) % 2 := by
  induction m generalizing c with
  | nil => rfl
  | cons b m ih =>
    have hb := oneBits_crcByte c b
    have hm := ih (crcByte c b)
    rw [crcBytes_cons, List.map_cons, List.sum_cons]
    omega

/-- Settles O14: by linearity the change is the pattern's own checksum, which has an odd number of 1 bits and so is not 0. -/
theorem crc8DetectsOddErrorPatterns : Obligations.Crc8DetectsOddErrorPatterns := by
  unfold Obligations.Crc8DetectsOddErrorPatterns
  intro m e hlen hodd hsame
  have hzero : crc8 e = 0 := by
    rw [← BitVec.xor_right_inj (crc8 m), ← crc8IsLinear m e hlen, hsame]
    exact BitVec.xor_zero.symm
  have hparity : oneBits (crc8 e) % 2 = (oneBits 0 + (e.map oneBits).sum) % 2 := oneBits_crcBytes e 0
  have hnone : oneBits 0 = 0 := by decide
  rw [hzero, hnone, Nat.zero_add] at hparity
  exact absurd (hparity.trans hodd) (by decide)

end Sys2Proof.Machine
end

section
/-! SUPPORT. The three commands of the CRC unit (R58 to R60): O15 to O17. -/

namespace Sys2Proof.Machine

open Sys2Proof.Laws

/-! ## Illegal words of an idle block (R51, R92) -/

theorem command_illegal_idle {s : State} {c : Word} (hs : s.Idle) (h : ∀ i, encode i ≠ c) :
    command c s = .next { s with err := 1, record := { s.record with failed := true } } := by
  obtain ⟨hseq, hee⟩ := hs
  rw [command_of_illegal fun i hi => h i (encode_of_decode hi)]
  simp [raise, errCode, hseq, hee]

theorem eq_crcclr_of_fieldOp {i : Instr} (h : fieldOp (encode i) = 0x8) : i = .crcclr := by
  cases i with
  | crcclr => rfl
  | _ => simp [encode] at h

theorem eq_crcbyte_of_fieldOp {i : Instr} (h : fieldOp (encode i) = 0x9) : ∃ b, i = .crcbyte b := by
  cases i with
  | crcbyte b => exact ⟨b, rfl⟩
  | _ => simp [encode] at h

theorem eq_crcbit_of_fieldOp {i : Instr} (h : fieldOp (encode i) = 0xA) : ∃ d, i = .crcbit d := by
  cases i with
  | crcbit d => exact ⟨d, rfl⟩
  | _ => simp [encode] at h

/-! ## Each command as one next state -/

theorem exec_crcclr (s : State) : exec .crcclr s = .next { s with crc := 0x00, err := 0 } := rfl

theorem exec_crcbyte (b : Byte) (s : State) : exec (.crcbyte b) s = .next { s with crc := crcByte s.crc b, err := 0 } := rfl

theorem exec_crcbit (d : Bool) (s : State) : exec (.crcbit d) s = .next { s with crc := crcBit s.crc d, err := 0 } := rfl

theorem encode_crcbyte (b : Byte) : encode (.crcbyte b) = 0x90000000 ||| (b.setWidth 32 <<< 16) := by revert b; decide

theorem execAll_cons {i : Instr} {s t : State} (h : exec i s = .next t) (is : List Instr) : execAll (i :: is) s = execAll is t := by
  rw [execAll, h]

/-- Settles O15: the all-zero operands are the only ones of CRCCLR's opcode. -/
theorem crcclrClearsTheAccumulator : Obligations.CrcclrClearsTheAccumulator := by
  unfold Obligations.CrcclrClearsTheAccumulator
  refine ⟨exec_crcclr, by decide, fun s c hs hop hc => command_illegal_idle hs ?_⟩
  rintro i rfl
  obtain rfl := eq_crcclr_of_fieldOp hop
  exact hc rfl

/-- Settles O16: the opcode of CRCBIT has two words, one for each bit. -/
theorem crcbitStepsTheAccumulator : Obligations.CrcbitStepsTheAccumulator := by
  unfold Obligations.CrcbitStepsTheAccumulator
  refine ⟨fun s d => exec_crcbit d s, by decide, fun s c hs hop h0 h1 => command_illegal_idle hs ?_, by decide⟩
  rintro i rfl
  obtain ⟨d, rfl⟩ := eq_crcbit_of_fieldOp hop
  cases d with
  | false => exact h0 rfl
  | true => exact h1 rfl

/-- R60, R78: eight CRCBIT commands, `b[7]` first, are one CRCBYTE. -/
theorem execAll_bitSerial (b : Byte) (s : State) : execAll (bitSerial b) s = exec (.crcbyte b) s := by
  simp only [bitSerial, execAll_cons (exec_crcbit _ _)]
  rfl

/-- Settles O17: a word of CRCBYTE's opcode that is an encoding has `Z` and `W` 0; the rest is the byte step. -/
theorem crcbyteStepsTheAccumulator : Obligations.CrcbyteStepsTheAccumulator := by
  unfold Obligations.CrcbyteStepsTheAccumulator
  refine ⟨fun s b => exec_crcbyte b s, encode_crcbyte, fun s c hs hop hzw => command_illegal_idle hs ?_,
    fun s b => execAll_bitSerial b s, crcByte_self, by decide⟩
  rintro i rfl
  obtain ⟨b, rfl⟩ := eq_crcbyte_of_fieldOp hop
  simp [encode] at hzw

end Sys2Proof.Machine
end

section
/-! SUPPORT. A command that nothing holds up: its phases counted down to IDLE, and the parameters, which no phase touches (R15, R71,
R74): O32. -/

namespace Sys2Proof.Machine

variable {s : State}

/-! ## The phases that are left -/

/-- The phases that follow the stop of a write frame (R74): none, the last settle wait, or a settle wait, a frame and the last one. -/
def phasesAfterFrame : EePhase → Nat
  | .idle => 0
  | .writing | .settleWrite => 1
  | .erasing | .settleErase => 8

/-- The phases a command passes through from a pair `(ee, seq)` on, that phase included, until it is in IDLE (R15). -/
def phasesFrom (e : EePhase) : Phase → Nat
  | .idle => 0
  | .inSession => 1
  | .rdBegin => 7
  | .rdAddr => 6
  | .rdRestart => 5
  | .rdReq => 4
  | .rdLo => 3
  | .rdHi => 2
  | .rdPec => 1
  | .wrBegin => phasesAfterFrame e + 6
  | .wrAddr => phasesAfterFrame e + 5
  | .wrLo => phasesAfterFrame e + 4
  | .wrHi => phasesAfterFrame e + 3
  | .wrPec => phasesAfterFrame e + 2
  | .wrStop => phasesAfterFrame e + 1
  | .settle => if e = .settleErase then 8 else 1

/-- The phases left of the command in progress. -/
def phasesLeft (s : State) : Nat := phasesFrom s.ee s.seq

theorem phasesFrom_le (e : EePhase) (p : Phase) : phasesFrom e p ≤ longestCommand := by
  have hafter : phasesAfterFrame e ≤ 8 := by cases e <;> decide
  cases p with
  | settle => rw [phasesFrom]; split <;> decide
  | _ => simp only [phasesFrom, longestCommand]; omega

theorem phasesFrom_pos (e : EePhase) {p : Phase} (h : p ≠ .idle) : 0 < phasesFrom e p := by
  cases p with
  | idle => exact absurd rfl h
  | settle => rw [phasesFrom]; split <;> decide
  | _ => simp [phasesFrom]

/-- A plain row of R15's table takes one phase off a frame, whatever follows the frame. -/
theorem phasesFrom_plainNext (e : EePhase) {p q : Phase} (h : plainNext p = some q) : phasesFrom e p = phasesFrom e q + 1 := by
  cases p <;> cases h <;> rfl

/-- R74: what a frame of an EEUPD leaves is its settle wait and what follows that. -/
theorem phasesFrom_settlingAfter {e : EePhase} (h : e ≠ .idle) : phasesFrom (settlingAfter e) .settle = phasesAfterFrame e := by
  cases e with
  | idle => exact absurd rfl h
  | _ => rfl

theorem phasesLeft_idle (h : s.seq = .idle) : phasesLeft s = 0 := by rw [phasesLeft, h]; rfl

theorem phasesLeft_primitiveReturn (hs : s.seq ≠ .settle) : phasesLeft (primitiveReturn s) = phasesLeft s - 1 := by
  obtain ⟨q, hq⟩ | h | h | h | h | h | h | h := plainNext_cases s.seq
  · rw [primitiveReturn_plain hq]
    exact Nat.eq_sub_of_add_eq (phasesFrom_plainNext s.ee hq).symm
  · rw [primitiveReturn_inSession h, phasesLeft_idle rfl, phasesLeft, h]
    rfl
  · rw [primitiveReturn_rdLo h, phasesLeft, phasesLeft, h]
    rfl
  · rw [primitiveReturn_rdHi h, phasesLeft, phasesLeft, h]
    rfl
  · rw [primitiveReturn_rdPec h, phasesLeft_idle (pecCheck_seq _ rfl), phasesLeft, h]
    rfl
  · have hleft : phasesLeft s - 1 = phasesAfterFrame s.ee := by rw [phasesLeft, h]; rfl
    rw [primitiveReturn_wrStop h, hleft]
    split
    · next he => rw [phasesLeft_idle rfl, he]; rfl
    · next he => exact phasesFrom_settlingAfter he
  · rw [primitiveReturn_idle h, phasesLeft_idle h]
  · exact absurd h hs

/-- A settle wait ends in the value frame of seven phases, its settle wait included, or in IDLE (R74). -/
theorem phasesLeft_settleDone (hs : s.seq = .settle) : phasesLeft (settleDone s) = phasesLeft s - 1 := by
  rw [phasesLeft, phasesLeft, hs]
  unfold settleDone
  split
  · next he => rw [he]; rfl
  · next he => rw [phasesFrom, if_neg he]; rfl

theorem phasesLeft_advance (s : State) : phasesLeft (advance s) = phasesLeft s - 1 := by
  by_cases hs : s.seq = .settle
  · rw [advance_settle hs, phasesLeft_settleDone (s := { s with settle := s.settle.clear }) hs]
    rfl
  · rw [advance_busy hs, phasesLeft_primitiveReturn hs]

theorem phasesLeft_advanceN (n : Nat) (s : State) : phasesLeft (advanceN n s) = phasesLeft s - n := by
  induction n generalizing s with
  | zero => rfl
  | succ n ih => rw [advanceN_succ, ih, phasesLeft_advance]; omega

/-- R71: from every state a command nothing holds up is in IDLE after the phases of the longest one. -/
theorem finish_seq (s : State) : (finish s).seq = .idle := by
  have hnone : phasesLeft (finish s) = 0 :=
    (phasesLeft_advanceN longestCommand s).trans (Nat.sub_eq_zero_of_le (phasesFrom_le s.ee s.seq))
  by_contra hne
  exact (phasesFrom_pos (finish s).ee hne).ne' hnone

/-! ## The parameters (R5, log entry 1) -/

/-- PEC_ENFORCE with T_TICK, and SETTLE_TICKS. -/
def paramsOf (s : State) : Config × Nat := (s.cfg, s.settle.ticks)

theorem primitiveReturn_params (s : State) : paramsOf (primitiveReturn s) = paramsOf s := by
  obtain ⟨q, hq⟩ | h | h | h | h | h | h | h := plainNext_cases s.seq
  · rw [primitiveReturn_plain hq]
    rfl
  · rw [primitiveReturn_inSession h]
    rfl
  · rw [primitiveReturn_rdLo h, takeLo_eq]
    rfl
  · rw [primitiveReturn_rdHi h, takeHi_eq]
    rfl
  · rw [primitiveReturn_rdPec h, takePec_eq, pecCheck]
    split <;> rfl
  · rw [primitiveReturn_wrStop h]
    split <;> rfl
  · rw [primitiveReturn_idle h]
  · rw [primitiveReturn_settle h]

theorem settleDone_params (s : State) : paramsOf (settleDone s) = paramsOf s := by
  unfold settleDone
  split <;> rfl

theorem advance_params (s : State) : paramsOf (advance s) = paramsOf s := by
  by_cases h : s.seq = .settle
  · rw [advance_settle h, settleDone_params]
    rfl
  · rw [advance_busy h, primitiveReturn_params]

theorem advanceN_params (n : Nat) (s : State) : paramsOf (advanceN n s) = paramsOf s := by
  induction n generalizing s with
  | zero => rfl
  | succ n ih => rw [advanceN_succ, ih, advance_params]

theorem finish_params (s : State) : paramsOf (finish s) = paramsOf s := advanceN_params _ s

/-- Settles O32: every phase brings IDLE one phase nearer, and no phase touches the parameters or the pending inputs. -/
theorem commandsEndWhenNothingHoldsThemUp : Obligations.CommandsEndWhenNothingHoldsThemUp := by
  unfold Obligations.CommandsEndWhenNothingHoldsThemUp
  intro s
  obtain ⟨hcfg, hticks⟩ := Prod.mk.inj (finish_params s)
  exact ⟨finish_seq s, (finish_goesOn s).grows, finish_inputs s, hcfg, hticks, finish_ready s⟩

end Sys2Proof.Machine
end

section
/-! SUPPORT. Where a step stops: the waiting block of R71(a) and R75 with no event pending, and nowhere else (log entry 9): O37. -/

namespace Sys2Proof.Machine

theorem isHost_iff (i : Input) : isHost i = true ↔ ∃ a, i = .host a := by cases i <;> simp [isHost]

/-- No return, no tick and no `rst` is pending (R71(a), R75). -/
theorem takeEvent_none_iff (l : List Input) : takeEvent l = none ↔ ∀ i ∈ l, ∃ a, i = .host a := by
  simp only [takeEvent_none, List.all_eq_true, isHost_iff]

theorem command_answers (c : Word) (s : State) : ∃ t, command c s = .next t := by
  unfold command
  split
  · exact exec_answers _ s
  · exact ⟨_, rfl⟩

theorem idleInput_answers (i : Input) (s : State) : ∃ t, idleInput i s = .next t := by
  cases i with
  | host a =>
    cases a with
    | read r => exact ⟨_, rfl⟩
    | write r v =>
      simp only [idleInput, hostAccess, hostWrite]
      split
      · exact command_answers v s
      · exact ⟨_, rfl⟩
  | ret => exact ⟨_, rfl⟩
  | tick => exact ⟨_, rfl⟩
  | rst => exact ⟨_, rfl⟩

/-- An idle block takes an input or waits; it never stops (R15, R110). -/
theorem idleStep_answers (s : State) : ∃ t, idleStep s = .next t := by
  unfold idleStep
  split
  · exact ⟨_, rfl⟩
  · exact idleInput_answers _ _

/-- The block waits for a primitive or a tick, and nothing pending can free it (R71(a), R75). -/
def HeldUp (s : State) : Prop := s.seq ≠ .idle ∧ s.prompt = false ∧ takeEvent s.inputs = none

theorem step_of_heldUp {s : State} (h : HeldUp s) : step s = .fault (stuck s) := by
  obtain ⟨hs, hp, hi⟩ := h
  rw [step, if_neg hs, busyStep, if_neg (by simp [hp]), hi]

theorem step_answers_of_not_heldUp {s : State} (h : ¬ HeldUp s) : ∃ t, step s = .next t := by
  unfold step
  split
  · exact idleStep_answers s
  next hs =>
  unfold busyStep
  split
  · exact ⟨_, rfl⟩
  next hp =>
  split
  · next hi => exact absurd ⟨hs, by simpa using hp, hi⟩ h
  · exact ⟨_, rfl⟩

theorem step_fault_iff {s : State} {f : Fault} : step s = .fault f ↔ HeldUp s ∧ f = stuck s := by
  by_cases h : HeldUp s
  · rw [step_of_heldUp h, Host.Outcome.fault.injEq, eq_comm]
    exact (and_iff_right h).symm
  · obtain ⟨t, ht⟩ := step_answers_of_not_heldUp h
    simp [ht, h]

theorem step_not_refused (s : State) (r : Refusal) : step s ≠ .refused r := by
  by_cases h : HeldUp s
  · simp [step_of_heldUp h]
  · obtain ⟨t, ht⟩ := step_answers_of_not_heldUp h
    simp [ht]

/-- Settles O37: a stuck block faults and every other one answers a next state. -/
theorem stepStopsExactlyWhenStuck : Obligations.StepStopsExactlyWhenStuck := by
  unfold Obligations.StepStopsExactlyWhenStuck
  refine fun s => ⟨fun f => ?_, step_not_refused s⟩
  rw [step_fault_iff, HeldUp, takeEvent_none_iff, and_assoc, and_assoc, stuck]

end Sys2Proof.Machine
end

section
/-! SUPPORT. INIT, RDREG and WRREG of an idle block, each as one next state, and their words (R66 to R69): O19 to O21. -/

namespace Sys2Proof.Machine

open Sys2Proof.Laws

variable {s : State} {a : Byte}

/-! ## Addresses and refusals (R52, R93) -/

/-- `readable` as the list of R52 that the statements write out. -/
theorem readable_iff_mem (a : Byte) :
    readable a = true ↔ a ∈ [0x06, 0x07, 0x08, 0x20, 0x21, 0x22, 0x23, 0x24, 0x25, 0x2E] := List.contains_iff_mem

/-- From the idle pair `(ee, seq)`, an error writes its code and the sticky record alone (R90). -/
theorem raise_of_idle (e : Err) (hs : s.Idle) :
    raise e s = { s with err := errCode e, record := { s.record with failed := true } } := by
  obtain ⟨hseq, hee⟩ := hs
  simp [raise, hseq, hee]

theorem exec_rdreg_unadmitted (hs : s.Idle)
    (ha : a ∉ [0x06, 0x07, 0x08, 0x20, 0x21, 0x22, 0x23, 0x24, 0x25, 0x2E]) :
    exec (.rdreg a) s = .next { s with err := 2, record := { s.record with failed := true } } := by
  rw [exec_rdreg_refused s (by simpa using mt (readable_iff_mem a).1 ha), raise_of_idle _ hs]
  rfl

theorem exec_wrreg_unadmitted (w : Half) (hs : s.Idle) (ha : a ∉ [0x20, 0x21, 0x22, 0x23, 0x24, 0x25, 0x2E]) :
    exec (.wrreg a w) s = .next { s with err := 2, record := { s.record with failed := true } } := by
  rw [exec_wrreg_refused w s (by simpa using mt (writable_iff_mem a).1 ha), raise_of_idle _ hs]
  rfl

/-! ## The words of the three commands (R46, R47) -/

theorem eq_init_of_fieldOp {i : Instr} (h : fieldOp (encode i) = 0x1) : i = .init := by
  cases i with
  | init => rfl
  | _ => simp [encode] at h

theorem eq_rdreg_of_fieldOp {i : Instr} (h : fieldOp (encode i) = 0x2) : ∃ a, i = .rdreg a := by
  cases i with
  | rdreg a => exact ⟨a, rfl⟩
  | _ => simp [encode] at h

theorem eq_wrreg_of_fieldOp {i : Instr} (h : fieldOp (encode i) = 0x3) : ∃ a w, i = .wrreg a w := by
  cases i with
  | wrreg a w => exact ⟨a, w, rfl⟩
  | _ => simp [encode] at h

/-- R46: the fields of a word, each at its place. -/
theorem cmdWord_eq_or (op : BitVec 4) (a : Byte) (w : Half) :
    cmdWord op a w = (op.setWidth 32 <<< 28) ||| (a.setWidth 32 <<< 16) ||| w.setWidth 32 := by
  apply BitVec.eq_of_getLsbD_eq
  intro k hk
  rw [cmdWord_getLsbD]
  simp only [BitVec.getLsbD_or, BitVec.getLsbD_shiftLeft, BitVec.getLsbD_setWidth, hk]
  split
  · next h16 => simp [h16, show k < 28 by omega]
  next h16 =>
  have hw : w.getLsbD k = false := BitVec.getLsbD_of_ge w k (by omega)
  split
  · next h24 => simp [h16, hw, show k < 28 by omega, show k - 16 < 32 by omega]
  next h24 =>
  have ha : a.getLsbD (k - 16) = false := BitVec.getLsbD_of_ge a _ (by omega)
  split
  · next h28 => simp [h28, ha, hw]
  · next h28 => simp [h28, ha, hw, show k - 28 < 32 by omega]

theorem encode_rdreg (a : Byte) : encode (.rdreg a) = 0x20000000 ||| (a.setWidth 32 <<< 16) := by
  simp [encode, cmdWord_eq_or]

theorem encode_wrreg (a : Byte) (w : Half) :
    encode (.wrreg a w) = 0x30000000 ||| (a.setWidth 32 <<< 16) ||| w.setWidth 32 := by
  simp [encode, cmdWord_eq_or]

/-! ## INIT (R66) -/

/-- Settles O19: INIT is one `BeginSession`, and its opcode has one word. -/
theorem initStartsTheSession : Obligations.InitStartsTheSession := by
  unfold Obligations.InitStartsTheSession
  refine ⟨fun s ⟨hseq, _⟩ hp => ?_, by decide, fun s c hs hop hc => command_illegal_idle hs ?_⟩
  · rw [exec_init_prompt hp]
    simp [complete, errCode, hseq]
  · rintro i rfl
    obtain rfl := eq_init_of_fieldOp hop
    exact hc rfl

/-! ## RDREG (R67, R69) -/

/-- Settles O20: the read frame leaves the three bytes and `pecCheck_eq` says what is made of them; the words of RDREG have `Z` and
`W` 0. -/
theorem rdregDeliversTheWord : Obligations.RdregDeliversTheWord := by
  unfold Obligations.RdregDeliversTheWord
  refine ⟨fun s a ⟨hseq, hee⟩ hp ha => ?_, encode_rdreg, fun s a hs ha => exec_rdreg_unadmitted hs ha,
    fun s c hs hop hzw => command_illegal_idle hs ?_⟩
  · rw [exec_rdreg_readable hp ((readable_iff_mem a).2 ha), pecCheck_eq (s := frameRead a s) rfl hee]
    have hword : rxAt s 1 ++ rxAt s 0 = joinWord (rxAt s 0) (rxAt s 1) := rfl
    simp [frameRead, noteUse, readEvents, hseq, hword]
  · rintro i rfl
    obtain ⟨a, rfl⟩ := eq_rdreg_of_fieldOp hop
    simp [encode] at hzw

/-! ## WRREG (R68) -/

/-- Settles O21: one write frame, whose PEC stays in `crc`; the words of WRREG have `Z` 0. -/
theorem wrregSendsOneWriteFrame : Obligations.WrregSendsOneWriteFrame := by
  unfold Obligations.WrregSendsOneWriteFrame
  refine ⟨fun s a w ⟨hseq, hee⟩ hp ha => ?_, encode_wrreg, fun s a w hs ha => exec_wrreg_unadmitted w hs ha,
    fun s c hs hop hz => command_illegal_idle hs ?_⟩
  · rw [exec_wrreg_writable w hp hee ((writable_iff_mem a).2 ha)]
    simp [complete, errCode, noteUse, writeEvents, lo, hi, hseq]
  · rintro i rfl
    obtain ⟨a, w, rfl⟩ := eq_wrreg_of_fieldOp hop
    simp [encode] at hz

end Sys2Proof.Machine
end

section
/-! SUPPORT. EEUPD of an idle block as one next state, the ticks of its settle waits, and the cycle of `ee` (R72 to R76): O22, O30,
O31. -/

namespace Sys2Proof.Machine

open Sys2Proof.Laws

variable {s t : State} {rest : List Input} {a : Byte}

/-! ## EEUPD (R72, R76) -/

theorem exec_eeupd_unadmitted (w : Half) (hs : s.Idle) (ha : a ∉ [0x20, 0x21, 0x22, 0x23, 0x24, 0x25, 0x2E]) :
    exec (.eeupd a w) s = .next { s with err := 2, record := { s.record with failed := true } } := by
  rw [exec_eeupd_refused w s (by simpa using mt (writable_iff_mem a).1 ha), raise_of_idle _ hs]
  rfl

theorem eq_eeupd_of_fieldOp {i : Instr} (h : fieldOp (encode i) = 0x4) : ∃ a w, i = .eeupd a w := by
  cases i with
  | eeupd a w => exact ⟨a, w, rfl⟩
  | _ => simp [encode] at h

theorem encode_eeupd (a : Byte) (w : Half) :
    encode (.eeupd a w) = 0x40000000 ||| (a.setWidth 32 <<< 16) ||| w.setWidth 32 := by
  simp [encode, cmdWord_eq_or]

/-- The erase frame of R72, byte for byte: the erase value is 0x0000 whatever the word (R76). -/
theorem writeEvents_erase (a : Byte) : writeEvents a 0x0000 =
    [.beginTx 0x5A, .writeByte a, .writeByte 0x00, .writeByte 0x00, .writeByte (crc8 [0xB4, a, 0x00, 0x00]), .endTx true] := rfl

/-- Settles O22: both frames and both waits are the trace of `exec_eeupd_writable`; the words of EEUPD have `Z` 0. -/
theorem eeupdErasesSettlesWritesSettles : Obligations.EeupdErasesSettlesWritesSettles := by
  unfold Obligations.EeupdErasesSettlesWritesSettles
  refine ⟨fun s a w ⟨hseq, hee⟩ hp ha => ?_, encode_eeupd, fun s a w hs ha => exec_eeupd_unadmitted w hs ha,
    fun s c hs hop hz => command_illegal_idle hs ?_⟩
  · rw [exec_eeupd_writable w hp ((writable_iff_mem a).2 ha), updateEvents, writeEvents_erase]
    simp [complete, errCode, noteUse, writeEvents, lo, hi, hseq, hee, SettleTimer.clear]
  · rintro i rfl
    obtain ⟨a, w, rfl⟩ := eq_eeupd_of_fieldOp hop
    simp [encode] at hz

/-! ## Ticks (R73, R75) -/

theorem tick_of_not_settle (hs : s.seq ≠ .settle) : tick s = s := if_neg hs

theorem tick_of_one_lt (hs : s.seq = .settle) (hv : 1 < s.settle.value) : tick s = { s with settle := s.settle.countDown } := by
  rw [tick, if_pos hs, if_neg (by omega)]

theorem tick_of_le_one (hs : s.seq = .settle) (hv : s.settle.value ≤ 1) :
    tick s = settleDone { s with settle := s.settle.clear } := by
  rw [tick, if_pos hs, if_pos hv]

/-- R74: the end of the erase settle starts the value frame, whose word is `wdata`. -/
theorem settleDone_settleErase (he : s.ee = .settleErase) :
    settleDone s = { s with
      ee := .writing, seq := .wrBegin, crc := crc8 [0xB4, s.addr, lo s.wdata, hi s.wdata]
      trace := s.trace ++ [.delay s.settle.ticks, .beginTx 0x5A] } := by
  rw [settleDone, if_pos he, beginWrite_eq, frameWord_of_ne_erasing EePhase.noConfusion]
  simp [emit]

/-- R74: the end of any other settle wait, that after the value frame, completes the command. -/
theorem settleDone_of_ne_settleErase (he : s.ee ≠ .settleErase) :
    settleDone s = { s with ee := .idle, seq := .idle, err := 0, trace := s.trace ++ [.delay s.settle.ticks] } := if_neg he

/-- With events, a tick at the head of the inputs is taken in every phase. -/
theorem step_takes_tick (hp : s.prompt = false) (hi : s.inputs = .tick :: rest) :
    step s = .next (tick { s with inputs := rest }) := by
  by_cases hs : s.seq = .idle
  · rw [step_idle hs hi, tick_of_not_settle (s := { s with inputs := rest }) (by simp [hs])]
    rfl
  · exact step_tick hs hp hi

/-- Settles O30: the three things a tick does in SETTLE, and the nothing it does elsewhere. -/
theorem ticksCountTheSettleWait : Obligations.TicksCountTheSettleWait := by
  unfold Obligations.TicksCountTheSettleWait
  intro s rest hp hi
  rw [step_takes_tick hp hi]
  refine ⟨fun n hs hv => ?counts, fun hs hv he => ?erased, fun hs hv he => ?written, fun hs => ?elsewhere⟩
  case counts =>
    have hdown : s.settle.countDown.value = s.settle.value - 1 := SettleTimer.countDown_value (by omega)
    refine ⟨s.settle.countDown, rfl, by omega, ?_⟩
    rw [tick_of_one_lt (s := { s with inputs := rest }) hs (by show 1 < s.settle.value; omega)]
  case erased =>
    rw [tick_of_le_one (s := { s with inputs := rest }) hs hv.le, settleDone_settleErase]
    · rfl
    · exact he
  case written =>
    rw [tick_of_le_one (s := { s with inputs := rest }) hs hv.le, settleDone_of_ne_settleErase]
    · rfl
    · simp [he]
  case elsewhere => rw [tick_of_not_settle (s := { s with inputs := rest }) hs]

/-! ## The cycle of `ee` (R74) -/

/-- The successor of each state in the table of R74. -/
def nextEe : EePhase → EePhase
  | .idle => .erasing
  | .erasing => .settleErase
  | .settleErase => .writing
  | .writing => .settleWrite
  | .settleWrite => .idle

/-- `ee` stays where it is or goes one state on in its cycle. -/
def KeepsToCycle (e e' : EePhase) : Prop := e' = e ∨ e' = nextEe e

theorem settlingAfter_keepsToCycle (e : EePhase) : KeepsToCycle e (settlingAfter e) := by
  cases e with
  | erasing => exact .inr rfl
  | writing => exact .inr rfl
  | _ => exact .inl rfl

/-- Only EEUPD leaves the idle state when a command is taken. -/
theorem start_ee (i : Instr) (he : s.ee = .idle) : KeepsToCycle s.ee (start i s).ee := by
  rw [he]
  cases i with
  | eeupd a w =>
    simp only [start]
    split
    · exact .inr rfl
    · exact .inl rfl
  | rdreg a =>
    simp only [start]
    split
    · exact .inl he
    · exact .inl rfl
  | wrreg a w =>
    simp only [start]
    split
    · exact .inl he
    · exact .inl rfl
  | _ => exact .inl he

/-- A command ends in the idle state at once, or waits for events in the state its start gives. -/
theorem command_ee {c : Word} (hs : s.Idle) (hv : s.settle.value = 0) (h : command c s = .next t) : KeepsToCycle s.ee t.ee := by
  obtain ⟨hseq, hee⟩ := hs
  obtain ⟨i, _, hi⟩ | ⟨_, rfl⟩ := command_cases h
  · cases hp : s.prompt with
    | true =>
      obtain ⟨_, _, _, _, _, _, _, hidle, _⟩ := commandsWriteWhatTheMatrixMarks s t i ⟨hseq, hee⟩ hv hp hi
      exact .inl (hidle.trans hee.symm)
    | false =>
      rw [exec_events i hseq hp] at hi
      obtain rfl := Host.Outcome.next.inj hi
      exact start_ee i hee
  · exact .inl hee.symm

/-- An idle block leaves the idle state by an EEUPD only, and an `rst` leaves it there. -/
theorem idleStep_ee (hs : s.Idle) (hv : s.settle.value = 0) (h : idleStep s = .next t) : KeepsToCycle s.ee t.ee := by
  obtain ⟨_, rfl⟩ | ⟨i, rest, _, ⟨c, _, hc⟩ | ⟨_, _, _, _, rfl⟩ | ⟨_, _, rfl⟩ | ⟨_, rfl⟩ | ⟨_, rfl⟩⟩ := idleStep_cases h
  · exact .inl rfl
  · exact command_ee (s := { s with inputs := rest }) hs hv hc
  · exact .inl rfl
  · exact .inl rfl
  · exact .inl rfl
  · exact .inl hs.2.symm

theorem pecCheck_ee (he : s.ee = .idle) : (pecCheck s).ee = .idle := by
  simp only [pecCheck]
  split
  · rfl
  · exact he

/-- The return of a primitive moves `ee` at the end of a write frame only (R15, R74). -/
theorem primitiveReturn_ee (h : PhaseInv s) : KeepsToCycle s.ee (primitiveReturn s).ee := by
  obtain ⟨q, hq⟩ | hs | hs | hs | hs | hs | hs | hs := plainNext_cases s.seq
  · rw [primitiveReturn_plain hq]
    exact .inl rfl
  · rw [primitiveReturn_inSession hs]
    exact .inl rfl
  · rw [primitiveReturn_rdLo hs, takeLo_eq]
    exact .inl rfl
  · rw [primitiveReturn_rdHi hs, takeHi_eq]
    exact .inl rfl
  · have he : s.ee = .idle := h.ee_idle (by rw [hs]; rfl) (by simp [hs])
    rw [primitiveReturn_rdPec hs, takePec_eq, pecCheck_ee, he]
    · exact .inl rfl
    · exact he
  · rw [primitiveReturn_wrStop hs]
    split
    · exact .inl rfl
    · exact settlingAfter_keepsToCycle s.ee
  · rw [primitiveReturn_idle hs]
    exact .inl rfl
  · rw [primitiveReturn_settle hs]
    exact .inl rfl

/-- A settle wait ends in the state after its own: the invariant has `ee` in one of the two settling states. -/
theorem settleDone_ee (h : phasesAgree s.ee .settle = true) : (settleDone s).ee = nextEe s.ee := by
  cases he : s.ee with
  | settleErase => rw [settleDone_settleErase he]; rfl
  | settleWrite => rw [settleDone_of_ne_settleErase (by simp [he])]; rfl
  | _ => simp [he, phasesAgree, inWrite] at h

theorem tick_ee (h : PhaseInv s) : KeepsToCycle s.ee (tick s).ee := by
  obtain ⟨_, ht⟩ | ⟨hs, _, ht⟩ | ⟨_, _, ht⟩ := tick_cases s
  · exact .inl (by rw [ht])
  · rw [ht]
    exact .inr (settleDone_ee (s := { s with settle := s.settle.clear }) (hs ▸ h.agree))
  · exact .inl (by rw [ht])

/-- R74: over a step `ee` keeps to its cycle, unless a busy block takes an `rst`. -/
theorem step_ee (h : SequencerInv s) (ht : step s = .next t) :
    KeepsToCycle s.ee t.ee ∨ ∃ rest, takeEvent s.inputs = some (.rst, rest) ∧ t.ee = .idle := by
  obtain ⟨hphase, hprompt⟩ := sequencerInv_iff.1 h
  obtain ⟨hs, ht⟩ | ⟨hs, ht⟩ := step_cases ht
  · have hsettle : s.seq ≠ .settle := by simp [hs]
    exact .inl (idleStep_ee ⟨hs, hphase.ee_idle (by rw [hs]; rfl) hsettle⟩ (hphase.stopped hsettle) ht)
  · obtain ⟨hp, _⟩ | ⟨_, i, rest, hi, rfl⟩ := busyStep_cases ht
    · exact absurd (hprompt hp) hs
    · have htaken' : SequencerInv { s with inputs := rest } := h
      have htaken := (sequencerInv_iff.1 htaken').1
      cases i with
      | host a => exact .inl (.inl rfl)
      | ret => exact .inl (primitiveReturn_ee htaken)
      | tick => exact .inl (tick_ee htaken)
      | rst => exact .inr ⟨rest, hi, rfl⟩

/-- Settles O31: a change that keeps to the cycle is one of its five transitions. -/
theorem eepromSequencerKeepsToItsCycle : Obligations.EepromSequencerKeepsToItsCycle := by
  unfold Obligations.EepromSequencerKeepsToItsCycle
  intro s t h ht hne
  obtain (hsame | hnext) | hrst := step_ee h ht
  · exact absurd hsame hne
  · rw [hnext]
    cases s.ee <;> simp [nextEe]
  · exact .inr (.inr (.inr (.inr (.inr hrst))))

end Sys2Proof.Machine
end

section
/-! SUPPORT. The expansion of `pec` (R78) and the conversions of the host (R84 to R88): O18, O51, O52. -/

namespace Sys2Proof.Machine

/-! ## A message through the CRC unit (R54, R78) -/

theorem execAll_append {is : List Instr} {s t : State} (h : execAll is s = .next t) (js : List Instr) :
    execAll (is ++ js) s = execAll js t := by
  induction is generalizing s with
  | nil =>
    obtain rfl := Host.Outcome.next.inj h
    rfl
  | cons i rest ih =>
    rw [execAll] at h
    split at h
    next u hi => exact (execAll_cons hi _).trans (ih h)
    all_goals cases h

/-- Bytes fed one after another are folded into the accumulator, whatever commands stand for one CRCBYTE. -/
theorem execAll_flatMap_byteStep {f : Byte → List Instr} (hf : ∀ b s, execAll (f b) s = exec (.crcbyte b) s) (s : State)
    (bytes : List Byte) (c : Byte) :
    execAll (bytes.flatMap f) { s with crc := c, err := 0 } = .next { s with crc := crcBytes c bytes, err := 0 } := by
  induction bytes generalizing c with
  | nil => rfl
  | cons b rest ih =>
    have hbyte := (hf b { s with crc := c, err := 0 }).trans (exec_crcbyte b _)
    rw [List.flatMap_cons, execAll_append hbyte, crcBytes_cons, ← ih]

/-- R57, R58: behind a CRCCLR the fold starts from CRC_INIT, from any state. -/
theorem execAll_crcclr_message {f : Byte → List Instr} (hf : ∀ b s, execAll (f b) s = exec (.crcbyte b) s) (s : State)
    (bytes : List Byte) :
    execAll (.crcclr :: bytes.flatMap f) s = .next { s with crc := crc8 bytes, err := 0 } := by
  rw [execAll_cons (exec_crcclr s)]
  exact execAll_flatMap_byteStep hf s bytes Config.crcInit

theorem expand_pec_eq_flatMap (bytes : List Byte) :
    expand (.pec bytes) = .crcclr :: bytes.flatMap fun b => [.crcbyte b] :=
  congrArg (List.cons Instr.crcclr) List.map_eq_flatMap

/-- R18: the accumulator is the low byte of PEC. -/
theorem pecView_low (s : State) : (pecView s).extractLsb' 0 8 = s.crc := by
  apply BitVec.eq_of_toNat_eq
  rw [BitVec.extractLsb'_toNat, pecView_toNat, Nat.shiftRight_zero]
  omega

/-- Settles O18: one CRCBYTE, or eight CRCBIT, for each byte are the same fold. -/
theorem pecLeavesCrc8 : Obligations.PecLeavesCrc8 := by
  unfold Obligations.PecLeavesCrc8
  intro s bytes
  refine ⟨?_, execAll_crcclr_message execAll_bitSerial s bytes, rfl, rfl, pecView_low _⟩
  rw [expand_pec_eq_flatMap]
  exact execAll_crcclr_message (fun b => execAll_singleton (.crcbyte b)) s bytes

/-! ## Emissivity (R86 to R88) -/

section
variable {num den : Nat} {w : Half}

/-- The floor fits in 16 bits, so the word loses nothing of it. -/
theorem emissivityWord_floor (hd : 0 < den) (hn : num ≤ den) :
    ∃ w, emissivityWord num den = some w ∧ w.toNat = num * 65535 / den := by
  refine ⟨BitVec.ofNat 16 (num * 65535 / den), if_pos ⟨hd.ne', hn⟩, ?_⟩
  have hle : num * 65535 / den ≤ 65535 := Nat.div_le_of_le_mul (Nat.mul_le_mul_right 65535 hn)
  rw [BitVec.toNat_ofNat, Nat.mod_eq_of_lt (by omega)]

theorem emissivityRatio_le_iff (hd : 0 < den) : emissivityRatio w ≤ (num : Rat) / den ↔ w.toNat * den ≤ num * 65535 := by
  rw [emissivityRatio, div_le_div_iff₀ (by norm_num) (by exact_mod_cast hd)]
  norm_cast

theorem lt_emissivityRatio_add_iff (hd : 0 < den) :
    (num : Rat) / den < emissivityRatio w + 1 / 65535 ↔ num * 65535 < (w.toNat + 1) * den := by
  rw [emissivityRatio, ← add_div, div_lt_div_iff₀ (by exact_mod_cast hd) (by norm_num)]
  norm_cast

end

/-- Settles O51: both bounds on the ratio are the two inequalities of the floor. -/
theorem emissivityRoundTrip : Obligations.EmissivityRoundTrip := by
  unfold Obligations.EmissivityRoundTrip
  intro num den hd hn
  obtain ⟨w, hword, hfloor⟩ := emissivityWord_floor hd hn
  have hlow : w.toNat * den ≤ num * 65535 := hfloor ▸ Nat.div_mul_le_self _ den
  have hhigh : num * 65535 < (w.toNat + 1) * den := (Nat.div_lt_iff_lt_mul hd).1 (hfloor ▸ Nat.lt_succ_self _)
  refine ⟨w, hword, hlow, hhigh, ?_, ?_, (emissivityRatio_le_iff hd).2 hlow, (lt_emissivityRatio_add_iff hd).2 hhigh⟩
  · rintro rfl
    exact BitVec.eq_of_toNat_eq (by simpa using hfloor)
  · rintro rfl
    exact BitVec.eq_of_toNat_eq (by rw [hfloor, Nat.mul_div_cancel_left _ hd]; rfl)

/-! ## Temperatures (R84, R85, R88) -/

theorem kelvin_eq_centiKelvin (raw : Half) : kelvin raw = (centiKelvin raw : Rat) / 100 := by
  rw [kelvin, centiKelvin]
  push_cast
  ring

theorem celsius_eq_centiCelsius (raw : Half) : celsius raw = (centiCelsius raw : Rat) / 100 := by
  rw [celsius, kelvin_eq_centiKelvin, centiKelvin, centiCelsius]
  push_cast
  ring

/-- Settles O52: the ranges are those of a 16-bit word. -/
theorem temperatureIntegerForms : Obligations.TemperatureIntegerForms := by
  unfold Obligations.TemperatureIntegerForms
  refine ⟨fun raw => ⟨kelvin_eq_centiKelvin raw, celsius_eq_centiCelsius raw, ?_⟩, by decide⟩
  have hraw : raw.toNat < 65536 := raw.isLt
  rw [centiKelvin, centiCelsius]
  omega

end Sys2Proof.Machine
end

section
/-! SUPPORT. The error codes of an idle block: what each one leaves unchanged, and which check decides it (R92, R93, R98): O5 to O7. -/

namespace Sys2Proof.Machine

open Sys2Proof.Laws

variable {s : State} {i : Instr} {c : Word}

/-! ## Legality and the address (R47, R52) -/

theorem row_mem_patternRows (i : Instr) : i.row ∈ patternRows := by
  cases i <;> simp [Instr.row, patternRows]

/-- R51: a word outside the patterns of R47 is the encoding of no command. -/
theorem encode_ne_of_no_pattern (h : ∀ r ∈ patternRows, r.selects c = false) (i : Instr) : encode i ≠ c := by
  rintro rfl
  exact Bool.false_ne_true ((h i.row (row_mem_patternRows i)).symm.trans (row_selects_encode i))

/-- R93: the address check of a command is that its operand is well formed. -/
theorem exec_of_not_wellFormed (s : State) (h : i.wellFormed = false) : exec i s = .next (raise .invalidOp s) := by
  cases i with
  | rdreg a => exact exec_rdreg_refused s h
  | wrreg a w => exact exec_wrreg_refused w s h
  | eeupd a w => exact exec_eeupd_refused w s h
  | init => cases h
  | crcclr => cases h
  | crcbyte b => cases h
  | crcbit d => cases h

/-! ## What a refusal leaves unchanged (R92, R93) -/

/-- Settles O5: each command's words match a pattern, so a word that matches none is refused. -/
theorem illegalWordWritesErrOnly : Obligations.IllegalWordWritesErrOnly := by
  unfold Obligations.IllegalWordWritesErrOnly
  exact fun s c hs h => command_illegal_idle hs (encode_ne_of_no_pattern h)

/-- Settles O6: the refusals of the three commands that take an address. -/
theorem unadmittedAddressWritesErrOnly : Obligations.UnadmittedAddressWritesErrOnly := by
  unfold Obligations.UnadmittedAddressWritesErrOnly
  exact fun s a w hs =>
    ⟨exec_rdreg_unadmitted hs, fun ha => ⟨exec_wrreg_unadmitted w hs ha, exec_eeupd_unadmitted w hs ha⟩⟩

/-! ## The order of the checks (R98) -/

/-- The last check: the code of an accepted RDREG is that of its PEC check (R69). -/
theorem pecCheck_frameRead_err (a : Byte) (he : s.ee = .idle) :
    (pecCheck (frameRead a s)).err =
      if s.cfg.pecEnforce = true ∧ rxAt s 2 ≠ crc8 [0xB5, a, rxAt s 0, rxAt s 1] then 3 else 0 := by
  rw [pecCheck_eq (s := frameRead a s) rfl he]
  simp [frameRead]

/-- Settles O7: the first two checks refuse, and of the commands that pass them only RDREG has a third. -/
theorem firstFailingCheckDecidesTheCode : Obligations.FirstFailingCheckDecidesTheCode := by
  unfold Obligations.FirstFailingCheckDecidesTheCode
  intro s c ⟨_, he⟩ hp
  cases hc : decode c with
  | error e => exact ⟨_, command_of_illegal (by simp [hc]) s, rfl⟩
  | ok i =>
    rw [command_of_decode hc]
    dsimp only
    cases hw : i.wellFormed with
    | false => exact ⟨_, exec_of_not_wellFormed s hw, rfl⟩
    | true =>
      cases i with
      | init => exact ⟨_, exec_init_prompt hp, rfl⟩
      | rdreg a => exact ⟨_, exec_rdreg_readable hp hw, pecCheck_frameRead_err a he⟩
      | wrreg a w => exact ⟨_, exec_wrreg_writable w hp he hw, rfl⟩
      | eeupd a w => exact ⟨_, exec_eeupd_writable w hp hw, rfl⟩
      | crcclr => exact ⟨_, exec_crcclr s, rfl⟩
      | crcbyte b => exact ⟨_, exec_crcbyte b s, rfl⟩
      | crcbit d => exact ⟨_, exec_crcbit d s, rfl⟩

end Sys2Proof.Machine
end

section
/-! SUPPORT. Resets, and what an observer of the sensor knows after one or after a reaction the spec leaves open (R110 to R112; environment
assumption of log entry 11): O38, O48, O49. -/

namespace Sys2Proof.Machine

variable {s t : State} {rest : List Input} {sn : Sensor}

/-! ## A step that takes an `rst` (R110) -/

/-- Both ways an `rst` is taken: as the next input of an idle block, as the next event of a busy one. -/
theorem step_rst (h : (s.seq = .idle ∧ s.inputs = .rst :: rest) ∨
      (s.seq ≠ .idle ∧ s.prompt = false ∧ takeEvent s.inputs = some (.rst, rest))) :
    step s = .next (applyReset { s with inputs := rest }) := by
  obtain ⟨hs, hi⟩ | ⟨hs, hp, hi⟩ := h
  · exact step_idle hs hi
  · exact step_event hs hp hi

theorem step_waits (hs : s.seq = .idle) (hi : s.inputs = []) : step s = .next s := by
  rw [step, if_pos hs, idleStep, hi]

/-- Settles O38: the next state is `applyReset`, whose fields are R23's. -/
theorem rstPutsEveryElementAtReset : Obligations.RstPutsEveryElementAtReset := by
  unfold Obligations.RstPutsEveryElementAtReset
  intro s t rest hrst ht
  rw [step_rst hrst] at ht
  obtain rfl := Host.Outcome.next.inj ht
  simpa [bne, beq_eq_decide] using step_waits (s := applyReset { s with inputs := rest }) rfl

/-! ## Once nothing is known (U11): every byte may come, for ever -/

theorem observeAll_stays_lost (h : sn.atDevAddr = false) (events : List Event) : (observeAll sn events).atDevAddr = false := by
  induction events generalizing sn with
  | nil => exact h
  | cons e events ih => exact ih (observe_stays_lost e h)

theorem allowsEvent_of_lost (cover : Byte → Byte → Byte → Byte) (h : sn.atDevAddr = false) (e : Event) :
    allowsEvent cover sn e = true := by
  cases e with
  | readByte b => exact mayDeliver_of_lost cover b h
  | _ => rfl

theorem allowsTrace_of_lost (cover : Byte → Byte → Byte → Byte) (h : sn.atDevAddr = false) (events : List Event) :
    allowsTrace cover sn events = true := by
  induction events generalizing sn with
  | nil => rfl
  | cons e events ih => rw [allowsTrace, allowsEvent_of_lost cover h, ih (observe_stays_lost e h), Bool.and_self]

theorem everything_may_come_of_lost (cover : Byte → Byte → Byte → Byte) (h : sn.atDevAddr = false) (events : List Event) (p : Byte) :
    allowsTrace cover sn events = true ∧ mayDeliver cover (observeAll sn events) p = true :=
  ⟨allowsTrace_of_lost cover h events, mayDeliver_of_lost cover p (observeAll_stays_lost h events)⟩

/-! ## Reactions the spec leaves open (U1, U7, U8, U11, N7) -/

/-- A `BeginTx` to DEV_ADDR opens a transaction, on a started transport with a free bus, or loses the sensor (U1, N7). -/
theorem observe_beginTx_cases (sn : Sensor) :
    (sn.started = true ∧ busFree sn = true ∧ observe sn (.beginTx 0x5A) = sn.sending []) ∨
      observe sn (.beginTx 0x5A) = lost sn := by
  by_cases h : sn.started = true ∧ busFree sn = true
  · obtain ⟨hstarted, hfree⟩ := h
    exact .inl ⟨hstarted, hfree, if_pos ⟨hstarted, hfree, rfl⟩⟩
  · exact .inr (if_neg fun ⟨hstarted, hfree, _⟩ => h ⟨hstarted, hfree⟩)

theorem observe_beginTx_unstarted (h : sn.started = false) : observe sn (.beginTx 0x5A) = lost sn :=
  (observe_beginTx_cases sn).resolve_left (by simp [h])

theorem observe_beginTx_busy (h : busFree sn = false) : observe sn (.beginTx 0x5A) = lost sn :=
  (observe_beginTx_cases sn).resolve_left (by simp [h])

/-- U8: a second `BeginSession` that need not be harmless. -/
theorem observe_beginSession_again (hs : sn.started = true) (hh : sn.againHarmless = false) :
    observe sn .beginSession = { lost sn with started := true } :=
  if_neg (by simp [hs, hh])

/-- U11, U4: the block's frame to `smbus_add_lsb`, whether the sensor has settled or not. -/
theorem sensorFrame_smbusAddLsb {w : Half} (h : sn.txn = some [0x2E, lo w, hi w, writePec 0x2E w]) : sensorFrame sn = lost sn := by
  cases hanswers : answers sn with
  | false => simp [sensorFrame, h, hanswers]
  | true => rw [sensorFrame_accepts h hanswers, sensorWrite, if_neg (fun hother => hother.2 rfl)]

/-- U11: the write frame to `smbus_add_lsb`, from any state of the sensor. -/
theorem observeAll_writeEvents_smbusAddLsb (sn : Sensor) (w : Half) : (observeAll sn (writeEvents 0x2E w)).atDevAddr = false := by
  rw [writeEvents, observeAll, List.foldl_cons]
  obtain ⟨_, _, hopen⟩ | hlost := observe_beginTx_cases sn
  · rw [hopen, ← writePec_eq]
    have hframe : sensorFrame (sn.sending [0x2E, lo w, hi w, writePec 0x2E w]) = lost (sn.sending _) := sensorFrame_smbusAddLsb rfl
    exact (congrArg Sensor.atDevAddr hframe :)
  · rw [hlost]
    exact observeAll_stays_lost rfl _

/-- A read frame loses the sensor, or leaves it with the three bytes delivered, and that only where reads keep the words (U7). -/
theorem observeAll_readEvents_cases (sn : Sensor) (a b0 b1 b2 : Byte) :
    (sn.readKeepsWords = true ∧ observeAll sn (readEvents a b0 b1 b2) = sn.delivering a [b0, b1, b2]) ∨
      (observeAll sn (readEvents a b0 b1 b2)).atDevAddr = false := by
  rw [readEvents, observeAll, List.foldl_cons]
  obtain ⟨_, _, hopen⟩ | hlost := observe_beginTx_cases sn
  · rw [hopen]
    cases hkeeps : sn.readKeepsWords with
    | true => exact .inl ⟨rfl, if_pos (.inr ⟨rfl, hkeeps⟩)⟩
    | false =>
      have hthird : observe (sn.delivering a [b0, b1]) (.readByte b2) = lost (sn.delivering a [b0, b1]) :=
        if_neg (by simp [Config.readLen, Sensor.delivering, hkeeps])
      exact .inr (congrArg Sensor.atDevAddr hthird :)
  · rw [hlost]
    exact .inr (observeAll_stays_lost rfl _)

/-- N7: behind the three bytes of a read the bus is free only by the transport's parameter. -/
theorem busFree_delivering_three (sn : Sensor) (a b0 b1 b2 : Byte) :
    busFree (sn.delivering a [b0, b1, b2]) = sn.readFreesBus := by
  simp [busFree, Sensor.delivering, Config.readLen]

/-- Settles O48: each of the five loses the sensor, and a lost sensor allows everything. -/
theorem nothingIsAssumedAfterAnUnknownReaction : Obligations.NothingIsAssumedAfterAnUnknownReaction := by
  unfold Obligations.NothingIsAssumedAfterAnUnknownReaction
  intro sn w a b0 b1 b2 p before after cover hbefore
  suffices hlost : (observeAll sn before).atDevAddr = false by
    rw [observeAll_append]
    exact everything_may_come_of_lost cover hlost after p
  obtain rfl | ⟨rfl, hstarted⟩ | ⟨rfl, hstarted, hharmless⟩ | ⟨rfl, hkeeps⟩ | ⟨rfl, hfrees⟩ := hbefore
  · exact observeAll_writeEvents_smbusAddLsb sn w
  · exact (congrArg Sensor.atDevAddr (observe_beginTx_unstarted hstarted) :)
  · exact (congrArg Sensor.atDevAddr (observe_beginSession_again hstarted hharmless) :)
  · exact (observeAll_readEvents_cases sn a b0 b1 b2).resolve_left (by simp [hkeeps])
  · rw [observeAll_append]
    obtain ⟨_, hread⟩ | hlost := observeAll_readEvents_cases sn a b0 b1 b2
    · rw [hread]
      exact (congrArg Sensor.atDevAddr (observe_beginTx_busy ((busFree_delivering_three sn a b0 b1 b2).trans hfrees)) :)
    · exact observeAll_stays_lost hlost _

/-! ## Along the steps of the block (R111, R112, U10) -/

theorem takesRst_idle (hs : s.seq = .idle) : takesRst s = decide (s.inputs.head? = some .rst) := if_pos hs

theorem takesRst_events (hs : s.seq ≠ .idle) (hp : s.prompt = false) (hi : takeEvent s.inputs = some (.rst, rest)) :
    takesRst s = true := by
  simp [takesRst, hs, hp, hi]

/-- A step without an `rst` only appends to the trace; where nothing holds a command up, a pending `rst` is not taken in it. -/
theorem trace_grows_of_no_rst (h : step s = .next t) (hr : takesRst s = false) : s.trace <+: t.trace := by
  obtain hgoes | ⟨_, ⟨hs, hi⟩ | ⟨hs, rest, hi⟩⟩ := step_goesOn_or_rst h
  · exact hgoes.grows
  · simp [takesRst_idle hs, hi] at hr
  · cases hp : s.prompt with
    | true =>
      rw [step, if_neg hs, busyStep, if_pos hp] at h
      obtain rfl := Host.Outcome.next.inj h
      exact (finish_goesOn s).grows
    | false => exact absurd hr (by simp [takesRst_events hs hp hi])

theorem observeStep_rst (h : takesRst s = true) (t : State) (sn : Sensor) : observeStep s t sn = observeRst s sn := if_pos h

theorem observeStep_no_rst {events : List Event} (h : takesRst s = false) (ht : t.trace = s.trace ++ events) (sn : Sensor) :
    observeStep s t sn = observeAll sn events := by
  rw [observeStep, if_neg (by simp [h]), ht, List.drop_left]

/-- Settles O49: the trace grows by the events observed, and an `rst` in mid-command loses the sensor. -/
theorem resetInMidCommandLeavesNothingKnown : Obligations.ResetInMidCommandLeavesNothingKnown := by
  unfold Obligations.ResetInMidCommandLeavesNothingKnown
  intro s t sn p after cover h
  refine ⟨fun hr => ?_, fun hs hi => ?_, fun rest hs hp hi => ?_⟩
  · obtain ⟨events, hgrows⟩ := trace_grows_of_no_rst h hr
    exact ⟨events, hgrows.symm, observeStep_no_rst hr hgrows.symm sn⟩
  · rw [observeStep_rst (by simp [takesRst_idle hs, hi]), observeRst, if_pos hs]
  · rw [observeStep_rst (takesRst_events hs hp hi), observeRst, if_neg hs]
    exact everything_may_come_of_lost cover rfl after p

end Sys2Proof.Machine
end
